-- ==== Sys2Proof/Word.lean ====
section
/-! DEFINITION. The word types of MEXP1: the 32-bit bus and command word, the operand register index, the bus offset. -/

namespace Sys2Proof

/-- One bus word, CSR or command word (00_scope.md R14: bus data width 32 bits, command word 32 bits). -/
abbrev Word := BitVec 32

/-- The index of an operand register `r0` .. `r7` (R19, R67). -/
abbrev Reg := Fin 8

/-- A byte offset from `MEXP_BASE`: the address space is `0x0000` to `0x3FFF` (20_memory.md R49),
which are exactly the values of 14 bits. -/
abbrev Offset := BitVec 14

end Sys2Proof
end

