-- ==== Sys2Proof/Config.lean ====
section
/-! DEFINITION. What an implementation of MEXP1 fixes: the operand width, the platform address, the random source. -/

namespace Sys2Proof

/-- The operand width, given as HWCFG.WWORDS = WBITS / 32 (10_state.md R25).
`WBITS` is a multiple of 32 with `64 <= WBITS <= 8192` (00_scope.md R9), so a value of this type is a
legal configuration and nothing else is. DESIGN CHOICE, see notes/assumptions/1.md. -/
structure Config.Params where
  words : Nat
  atLeast : 2 ≤ words
  atMost : words ≤ 256
deriving DecidableEq, Repr

/-- `WBITS`, the width in bits of every operand register (R9). -/
def Config.Params.wbits (p : Config.Params) : Nat := 32 * p.words

/-- `REF64`, the reference configuration: `WBITS = 64` (R10). -/
def Config.ref64 : Config.Params := ⟨2, by decide, by decide⟩

/-- `MEXP_BASE`, the platform address of the 16 KiB region: a parameter left open (R12). -/
opaque Config.mexpBase : Nat

/-- `RngState`, the type of the random source's states: left open (R13). The model takes states that a
number can name and assumes nothing of which number names which state (DESIGN CHOICE); see
notes/assumptions/4.md. -/
structure Config.RngState where
  code : Nat
deriving DecidableEq, Repr, Inhabited

/-- `rngInit`: the state a seed gives, left open (R13). Each configuration has a function of its own, so
nothing relates the sources of two widths. R13 gives it the domain `[0, 2^WBITS)` of that configuration: on
it any function at all may stand here, and outside it, where no reachable state asks, the value is free as
well. A free value; see notes/assumptions/4.md. -/
opaque Config.rngInit : Config.Params → Nat → Config.RngState

/-- The number a draw for a candidate takes from a state. A free value; see notes/assumptions/4.md. -/
opaque Config.rngRaw : Config.Params → Config.RngState → Nat → Nat

/-- The state a draw for a candidate leaves. A free value; see notes/assumptions/4.md. -/
opaque Config.rngNext : Config.Params → Config.RngState → Nat → Config.RngState

/-- `rngDraw`: one draw for candidate `n` (R13, 43_random_context.md R99), a function of each configuration's
own. For odd `n >= 5` the base lies in `[2, n - 2]`, which is the one law the model may assume (R100). For
an even `n` and for `n < 5`, where R100 states no law and the machine never draws (R99), the base is the raw
number itself, free of every bound. So every function that obeys R100 is of this form, and every function
of this form obeys it. DESIGN CHOICE (that the range law stands in the body, on a raw number), see
notes/assumptions/4.md. -/
def Config.rngDraw (p : Config.Params) (st : Config.RngState) (n : Nat) : Nat × Config.RngState :=
  (if n % 2 = 1 ∧ 5 ≤ n then 2 + Config.rngRaw p st n % (n - 3) else Config.rngRaw p st n,
    Config.rngNext p st n)

end Sys2Proof
end

