-- ==== Sys2Proof/Syntax.lean ====
section
/-! DEFINITION. The 13 commands of MEXP1, one constructor for each row of spec/opcode_table.json. -/

namespace Sys2Proof

/-- A command with the fields it reads (30_encoding.md R69); a field it does not read is ignored by the
hardware (R71) and is no part of it. The operands stand in the assembler's order (R73). An
immediate is the unsigned number of R68. -/
inductive Instr where
  | nop
  | mov (rd ra : Reg)
  | ldi (rd : Reg) (imm : Nat)
  | modred (rd ra rm : Reg)
  | modmul (rd ra rb rm : Reg)
  | modsqr (rd ra rm : Reg)
  | sqrn (rd ra rm : Reg) (k : Nat)
  | powmod (rd ra rb rm : Reg)
  | decomp (rd rb ra : Reg)
  | mrround (rd ra rb : Reg)
  | mrtest (rd ra : Reg) (k : Nat)
  | seed (ra : Reg)
  | unseed
deriving DecidableEq, Repr

end Sys2Proof
end

