-- ==== Sys2Proof/Machine/State.lean ====
section
/-! DEFINITION. The state of MEXP1 as plain data, the outcomes of a command and of a step, and the state after reset. -/

namespace Sys2Proof.Machine

open Sys2Proof

/-- The command errors of 60_exceptions.md R106. A command error is an architected outcome, not a model
fault (R105); codes 7 to 15 are reserved and have no constructor. -/
inductive CmdError where
  | illegalOpcode
  | modZero
  | domain
  | operand
  | rngUnseeded
  | rngState
deriving DecidableEq, Repr

/-- What the command rule of a command answers (10_state.md R45): the writes, the value that decides Z,
the rounds and the random context of a success, or the error. -/
inductive Result where
  | ok (writes : List (Reg × Nat)) (zval : Option Nat) (rounds : Nat) (rng : Option Config.RngState)
  | err (e : CmdError)
deriving DecidableEq, Repr

/-- The ten control and status registers (R23). -/
inductive Csr where
  | id
  | hwcfg
  | ctrl
  | cmd
  | status
  | intrState
  | intrEnable
  | hosterr
  | lastcmd
  | mrRounds
deriving DecidableEq, Repr

/-- One atomic event of MEXP1 (60_exceptions.md R113): a host access of some width in bits at an offset
(20_memory.md R65), the engine's turn, or a hard reset (70_reset_and_hazards.md R124). -/
inductive Event where
  | hostRead (width : Nat) (off : Offset)
  | hostWrite (width : Nat) (off : Offset) (v : Word)
  | engine
  | hardReset
deriving DecidableEq, Repr

/-- What the host gets back from an access that is not a bus error (20_memory.md R65): the word read,
or the completion of the write. -/
inductive Reply where
  | data (v : Word)
  | written
deriving DecidableEq, Repr

/-- Why the machine stops. -/
inductive Fault where
  /-- Raised by a host access that gets a bus error (60_exceptions.md R109): not 32 bits wide, at an
  offset that is no multiple of 4, or at an unmapped offset. It changes no state of MEXP1, and the
  model stops as 93_implementation_defined.md V5 says. Safe. -/
  | busError (off : Offset)
deriving DecidableEq, Repr

/-- Why a command has no meaning in the model. -/
inductive Refusal where
  /-- Raised by an arm of `exec` for a command that has no meaning yet; no arm does. Safe. -/
  | notModelled (mnemonic : String)
deriving DecidableEq, Repr

/-- The state of MEXP1. The fields down to `rng` are the spec's; `params` is the machine's
configuration, which no step changes; `schedule` and `replies` are the model's own, the events that
reach MEXP1 and what the host has got back (notes/assumptions/1.md, 2.md and 3.md). -/
structure State where
  /-- The configuration constant that HWCFG shows (10_state.md R25). -/
  params : Config.Params
  /-- The operand registers `x[0]` .. `x[7]`, unsigned integers below `2^WBITS` (R19). -/
  x : Vector Nat 8
  /-- STATUS.BUSY (R29). -/
  busy : Bool
  /-- STATUS.DONE (R30). -/
  done : Bool
  /-- STATUS.ERR (R30). -/
  err : Bool
  /-- STATUS.Z (R31). -/
  z : Bool
  /-- STATUS.ERRCODE (R33). -/
  errcode : BitVec 4
  /-- INTR_STATE.DONE (R34). -/
  intrDone : Bool
  /-- INTR_STATE.ERR (R34). -/
  intrErr : Bool
  /-- INTR_ENABLE.DONE_EN (R35). -/
  doneEn : Bool
  /-- INTR_ENABLE.ERR_EN (R35). -/
  errEn : Bool
  /-- HOSTERR.OVERRUN (R36). -/
  overrun : Bool
  /-- HOSTERR.BUSYACC (R36). -/
  busyAcc : Bool
  /-- LASTCMD (R37): while BUSY is 1, the command in flight. -/
  lastCmd : Word
  /-- MR_ROUNDS (R38). -/
  mrRounds : Word
  /-- The random context: `none` when unseeded (R41). -/
  rng : Option Config.RngState
  /-- The events still to come, in their order: the single interleaving of 20_memory.md R59. -/
  schedule : List Event
  /-- What the host has got back, the latest first. -/
  replies : List Reply
deriving DecidableEq, Repr

/-- The state of 10_state.md R48 in a given configuration: everything 0, the random context unseeded, no
command in flight; no event is waiting and the host has got nothing back. -/
def State.resetWith (p : Config.Params) : State where
  params := p
  x := Vector.replicate 8 0
  busy := false
  done := false
  err := false
  z := false
  errcode := 0
  intrDone := false
  intrErr := false
  doneEn := false
  errEn := false
  overrun := false
  busyAcc := false
  lastCmd := 0
  mrRounds := 0
  rng := none
  schedule := []
  replies := []

/-- The machine right after reset, in the reference configuration REF64 (00_scope.md R10, 10_state.md R48). -/
def State.reset : State := State.resetWith Config.ref64

end Sys2Proof.Machine
end

