-- ==== Sys2Proof/Machine/Flags.lean ====
section
/-! DEFINITION. Every flag and status computation: Z, the error codes, the CSR words and the interrupt output. -/

namespace Sys2Proof.Machine

open Sys2Proof

/-- Z after a success: 1 exactly when the value written to the first destination is 0; a command that
writes no register leaves it 0 (10_state.md R31, R45). -/
def zeroFlag (zval : Option Nat) : Bool := zval = some 0

/-- The code STATUS.ERRCODE shows for an error (60_exceptions.md R106). -/
def CmdError.code (e : CmdError) : BitVec 4 :=
  match e with
  | .illegalOpcode => 1
  | .modZero => 2
  | .domain => 3
  | .operand => 4
  | .rngUnseeded => 5
  | .rngState => 6

/-- ID: the constant `0x4D455850` (10_state.md R24). -/
def idWord : Word := 0x4D455850

/-- HWCFG: reserved 0, VERSION 1, NREGS 8, WWORDS = WBITS / 32 (R25). -/
def hwcfgWord (p : Config.Params) : Word :=
  0#8 ++ 1#4 ++ 8#4 ++ BitVec.ofNat 16 p.words

/-- STATUS.RNG_READY: 1 exactly when the random context is seeded (R32). -/
def State.rngReady (s : State) : Bool := s.rng.isSome

/-- STATUS: ERRCODE in [11:8], then RNG_READY, Z, ERR, DONE and BUSY in [4:0] (R28). -/
def State.statusWord (s : State) : Word :=
  0#20 ++ s.errcode ++ 0#3 ++ BitVec.ofBool s.rngReady ++ BitVec.ofBool s.z ++ BitVec.ofBool s.err
    ++ BitVec.ofBool s.done ++ BitVec.ofBool s.busy

/-- INTR_STATE: ERR in bit 1, DONE in bit 0 (R34). -/
def State.intrStateWord (s : State) : Word :=
  0#30 ++ BitVec.ofBool s.intrErr ++ BitVec.ofBool s.intrDone

/-- INTR_ENABLE: ERR_EN in bit 1, DONE_EN in bit 0 (R35). -/
def State.intrEnableWord (s : State) : Word :=
  0#30 ++ BitVec.ofBool s.errEn ++ BitVec.ofBool s.doneEn

/-- HOSTERR: BUSYACC in bit 1, OVERRUN in bit 0 (R36). -/
def State.hosterrWord (s : State) : Word :=
  0#30 ++ BitVec.ofBool s.busyAcc ++ BitVec.ofBool s.overrun

/-- The interrupt output `irq`, level sensitive (60_exceptions.md R112). -/
def State.irq (s : State) : Bool :=
  (s.intrDone && s.doneEn) || (s.intrErr && s.errEn)

end Sys2Proof.Machine
end

