-- ==== Sys2Proof/WellFormed.lean ====
section
/-! DEFINITION. Which commands the 32-bit format can express. -/

namespace Sys2Proof

/-- An immediate is a number from 0 to 16383 (30_encoding.md R68, R73). -/
def immFits (imm : Nat) : Bool := imm ≤ 16383

/-- A command is well formed when its immediate fits `imm14`; every register index is legal in every
field (R67), and two fields may name one register. -/
def Instr.wellFormed (i : Instr) : Bool :=
  match i with
  | .nop => true
  | .mov _ _ => true
  | .ldi _ imm => immFits imm
  | .modred _ _ _ => true
  | .modmul _ _ _ _ => true
  | .modsqr _ _ _ => true
  | .sqrn _ _ _ k => immFits k
  | .powmod _ _ _ _ => true
  | .decomp _ _ _ => true
  | .mrround _ _ _ => true
  | .mrtest _ _ k => immFits k
  | .seed _ => true
  | .unseed => true

/-- `wellFormed`, as a proposition. -/
abbrev Instr.WellFormed (i : Instr) : Prop := i.wellFormed = true

end Sys2Proof
end

