-- ==== Sys2Proof/Decode.lean ====
section
/-! DEFINITION. Command words: the decoder, the encoder, and the bit-field helper both use. -/

namespace Sys2Proof

/-- `v[hi:lo]`, the field of bits `hi` down to `lo` of `v`, as an unsigned number (00_scope.md R15). -/
def slice (v hi lo : Nat) : Nat := v / 2 ^ lo % 2 ^ (hi - lo + 1)

/-- The register a 3-bit field names: value `i` names `ri` (30_encoding.md R67). -/
def regField (v hi lo : Nat) : Reg := Fin.ofNat 8 (slice v hi lo)

/-- Why a word is no command of the opcode map. -/
inductive DecodeError where
  /-- The opcode field holds a reserved value (R70). -/
  | reservedOpcode (op : Nat)
deriving DecidableEq, Repr

/-- The command that field values give: the opcode selects the command (R69), which takes the fields it
reads and ignores the rest (R71); a reserved opcode (R70) is rejected by name. -/
def decodeFields (op : Nat) (rd ra rb rm : Reg) (imm : Nat) : Except DecodeError Instr :=
  match op with
  | 0x00 => .ok .nop
  | 0x01 => .ok (.mov rd ra)
  | 0x02 => .ok (.ldi rd imm)
  | 0x08 => .ok (.modred rd ra rm)
  | 0x09 => .ok (.modmul rd ra rb rm)
  | 0x0A => .ok (.modsqr rd ra rm)
  | 0x0B => .ok (.sqrn rd ra rm imm)
  | 0x0C => .ok (.powmod rd ra rb rm)
  | 0x10 => .ok (.decomp rd rb ra)
  | 0x11 => .ok (.mrround rd ra rb)
  | 0x12 => .ok (.mrtest rd ra imm)
  | 0x18 => .ok (.seed ra)
  | 0x19 => .ok .unseed
  | op => .error (.reservedOpcode op)

/-- The command a word carries, total on every word: its fields stand where R66 puts them. -/
def decode (w : Word) : Except DecodeError Instr :=
  let v := w.toNat
  decodeFields (slice v 31 26) (regField v 25 23) (regField v 22 20) (regField v 19 17)
    (regField v 16 14) (slice v 13 0)

/-- The decoder on a word numbered as spec/opcode_table.json numbers it; a command is one 32-bit word (R66),
and bits above `nbits` are zero. -/
def decodeTableWord (nbits w : Nat) : Option Instr :=
  match decode (BitVec.ofNat 32 (w % 2 ^ nbits)) with
  | .ok i => some i
  | .error _ => none

/-- The command word for field values (op, rd, ra, rb, rm, imm), the formula of R69. -/
def commandWord (op : Nat) (rd ra rb rm : Reg) (imm : Nat) : Word :=
  BitVec.ofNat 32
    (op * 2 ^ 26 + rd.val * 2 ^ 23 + ra.val * 2 ^ 20 + rb.val * 2 ^ 17 + rm.val * 2 ^ 14 + imm)

/-- The opcode of a command (R69). -/
def Instr.opcode (i : Instr) : Nat :=
  match i with
  | .nop => 0x00
  | .mov _ _ => 0x01
  | .ldi _ _ => 0x02
  | .modred _ _ _ => 0x08
  | .modmul _ _ _ _ => 0x09
  | .modsqr _ _ _ => 0x0A
  | .sqrn _ _ _ _ => 0x0B
  | .powmod _ _ _ _ => 0x0C
  | .decomp _ _ _ => 0x10
  | .mrround _ _ _ => 0x11
  | .mrtest _ _ _ => 0x12
  | .seed _ => 0x18
  | .unseed => 0x19

/-- The canonical word of a command: every field it does not read is 0 (R75). -/
def encode (i : Instr) : Word :=
  match i with
  | .nop => commandWord 0x00 0 0 0 0 0
  | .mov rd ra => commandWord 0x01 rd ra 0 0 0
  | .ldi rd imm => commandWord 0x02 rd 0 0 0 imm
  | .modred rd ra rm => commandWord 0x08 rd ra 0 rm 0
  | .modmul rd ra rb rm => commandWord 0x09 rd ra rb rm 0
  | .modsqr rd ra rm => commandWord 0x0A rd ra 0 rm 0
  | .sqrn rd ra rm k => commandWord 0x0B rd ra 0 rm k
  | .powmod rd ra rb rm => commandWord 0x0C rd ra rb rm 0
  | .decomp rd rb ra => commandWord 0x10 rd ra rb 0 0
  | .mrround rd ra rb => commandWord 0x11 rd ra rb 0 0
  | .mrtest rd ra k => commandWord 0x12 rd ra 0 0 k
  | .seed ra => commandWord 0x18 0 ra 0 0 0
  | .unseed => commandWord 0x19 0 0 0 0 0

/-- The opcode values the map reserves (R70). -/
abbrev ReservedOpcode (op : Nat) : Prop :=
  (0x03 ≤ op ∧ op ≤ 0x07) ∨ (0x0D ≤ op ∧ op ≤ 0x0F) ∨ (0x13 ≤ op ∧ op ≤ 0x17) ∨ (0x1A ≤ op ∧ op ≤ 0x3F)

end Sys2Proof
end

