-- ==== Sys2Proof/Machine/Operands.lean ====
section
/-! DEFINITION. The operand forms: a source register, an immediate, a modulus, one bus word of a register. -/

namespace Sys2Proof.Machine

open Sys2Proof

/-- A source register: `x[i]` (10_state.md R19, R20). -/
def State.reg (s : State) (i : Reg) : Nat := s.x[i]

/-- An immediate operand, zero-extended to WBITS (30_encoding.md R68): as a number it is itself, since
an immediate of 14 bits is below `2^WBITS` (10_state.md R21). -/
def immOperand (imm : Nat) : Nat := imm

/-- The modulus operand: `x[rm]`, read first; 0 raises MOD_ZERO and the command writes nothing
(41_modular_arithmetic.md R82). -/
def withModulus (s : State) (rm : Reg) (f : Nat → Result) : Result :=
  if s.reg rm = 0 then .err .modZero else f (s.reg rm)

/-- The lowest bit of word `j` of an operand register: words count from the most significant
(20_memory.md R51, R53). -/
def wordShift (p : Config.Params) (j : Nat) : Nat := p.wbits - 32 - 32 * j

/-- `word(i, j)` of a register value: bits `[WBITS-1-32j : WBITS-32-32j]` (R51). -/
def wordOf (p : Config.Params) (v j : Nat) : Word :=
  BitVec.ofNat 32 (slice v (wordShift p j + 31) (wordShift p j))

/-- A register value with its word `j` replaced and every other bit kept (R51, R56). -/
def replaceWord (p : Config.Params) (v j : Nat) (w : Word) : Nat :=
  v / 2 ^ (wordShift p j + 32) * 2 ^ (wordShift p j + 32) + w.toNat * 2 ^ wordShift p j
    + v % 2 ^ wordShift p j

end Sys2Proof.Machine
end

