-- ==== Sys2Proof/Machine/Ops.lean ====
section
/-! DEFINITION. The named operations over the state: register writes, accepting a command, completing one with
success or with an error, reset, and answering the host. -/

namespace Sys2Proof.Machine

open Sys2Proof

/-- The register file with `ri` holding `v`. -/
def writeReg (x : Vector Nat 8) (i : Reg) (v : Nat) : Vector Nat 8 := x.set i.val v i.isLt

/-- The register file after the writes of a success, in their order (10_state.md R45). -/
def applyWrites (x : Vector Nat 8) (writes : List (Reg × Nat)) : Vector Nat 8 :=
  writes.foldl (fun y w => writeReg y w.1 w.2) x

/-- `x[i] <- v` (00_scope.md R16). No register is hardwired (10_state.md R19). -/
def State.setReg (s : State) (i : Reg) (v : Nat) : State := { s with x := writeReg s.x i v }

/-- A command rule's success that writes one register: `Ok([(rd, v)], zval = v, 0, rng)`. -/
def State.okWrite (s : State) (rd : Reg) (v : Nat) : Result := .ok [(rd, v)] (some v) 0 s.rng

/-- A command error (60_exceptions.md R107): ERR and its code, INTR_STATE.ERR, and BUSY cleared. No
register, random context or round count changes; the command stays in LASTCMD. -/
def State.raiseCmdError (s : State) (e : CmdError) : State :=
  { s with err := true, errcode := e.code, intrErr := true, busy := false }

/-- A successful completion (10_state.md R45): the writes, the random context, Z, MR_ROUNDS and the DONE
flags, and BUSY cleared. -/
def State.succeed (s : State) (writes : List (Reg × Nat)) (zval : Option Nat) (rounds : Nat)
    (rng : Option Config.RngState) : State :=
  { s with
    x := applyWrites s.x writes
    rng := rng, z := zeroFlag zval, mrRounds := BitVec.ofNat 32 rounds,
    done := true, intrDone := true, busy := false }

/-- The completion step's commit of a command rule's answer (R45). -/
def State.commit (s : State) (r : Result) : State :=
  match r with
  | .ok writes zval rounds rng => s.succeed writes zval rounds rng
  | .err e => s.raiseCmdError e

/-- A completion, which always has a next state. -/
def complete (s : State) (r : Result) : Host.Outcome State Fault Refusal := .next (s.commit r)

/-- Acceptance of a command word while idle (R44): it becomes LASTCMD, the flags of the previous command and
MR_ROUNDS are cleared, and BUSY is set. The word is not decoded. -/
def State.accept (s : State) (w : Word) : State :=
  { s with
    lastCmd := w, done := false, err := false, errcode := 0, z := false, mrRounds := 0, busy := true }

/-- A hard reset (70_reset_and_hazards.md R124): every piece of state takes its value of 10_state.md R48, and
a command in flight is discarded. The configuration, the events to come and what the host has
already got back are not MEXP1's to reset. -/
def State.hardReset (s : State) : State :=
  { State.resetWith s.params with schedule := s.schedule, replies := s.replies }

/-- HOSTERR.OVERRUN is set; nothing else changes (10_state.md R36, R44, R125). -/
def State.noteOverrun (s : State) : State := { s with overrun := true }

/-- HOSTERR.BUSYACC is set; nothing else changes (R36, 20_memory.md R52). -/
def State.noteBusyAccess (s : State) : State := { s with busyAcc := true }

/-- The host gets an answer (20_memory.md R65). -/
def State.answer (s : State) (r : Reply) : State := { s with replies := r :: s.replies }

end Sys2Proof.Machine
end

