-- ==== Sys2Proof/Machine/Bus.lean ====
section
/-! DEFINITION. The host bus: the address map, the CSRs, the operand window, and what a read or a write does. -/

namespace Sys2Proof.Machine

open Sys2Proof

/-- What a mapped offset names: a CSR, or word `j` of operand register `ri` (20_memory.md R50). -/
inductive Target where
  | csr (c : Csr)
  | window (i : Reg) (j : Nat)
deriving DecidableEq, Repr

/-- The offset that a platform address inside the 16 KiB region at `MEXP_BASE` names (00_scope.md R12,
20_memory.md R49); an address outside it does not reach MEXP1. -/
def offsetOfAddress (addr : Nat) : Option Offset :=
  if Config.mexpBase ≤ addr ∧ addr < Config.mexpBase + 0x4000 then
    some (BitVec.ofNat 14 (addr - Config.mexpBase))
  else none

/-- The offset of each CSR (10_state.md R23). -/
def csrAt (off : Nat) : Option Csr :=
  match off with
  | 0x000 => some .id
  | 0x004 => some .hwcfg
  | 0x008 => some .ctrl
  | 0x00C => some .cmd
  | 0x010 => some .status
  | 0x014 => some .intrState
  | 0x018 => some .intrEnable
  | 0x01C => some .hosterr
  | 0x020 => some .lastcmd
  | 0x024 => some .mrRounds
  | _ => none

/-- `OPB(i)`, the offset of operand register `ri` (20_memory.md R51). -/
def opb (p : Config.Params) (i : Reg) : Nat := 0x1000 + i.val * (p.wbits / 8)

/-- The register and word a multiple of 4 in the operand window names (R50, R51). -/
def windowAt (p : Config.Params) (off : Nat) : Option Target :=
  if 0x1000 ≤ off ∧ off < 0x1000 + p.wbits then
    some (.window (Fin.ofNat 8 ((off - 0x1000) / (p.wbits / 8))) ((off - 0x1000) % (p.wbits / 8) / 4))
  else none

/-- What an access reaches: an aligned 32-bit access of a CSR or the window. Every other access is a
bus error (20_memory.md R54, R55, 60_exceptions.md R109). -/
def accessTarget (p : Config.Params) (width : Nat) (off : Offset) : Option Target :=
  if width = 32 ∧ off.toNat % 4 = 0 then
    match csrAt off.toNat with
    | some c => some (.csr c)
    | none => windowAt p off.toNat
  else none

/-- The value a read of a CSR returns (10_state.md R24 to R38): CTRL and CMD read 0 (R26, R27). -/
def State.readCsr (s : State) (c : Csr) : Word :=
  match c with
  | .id => idWord
  | .hwcfg => hwcfgWord s.params
  | .ctrl => 0
  | .cmd => 0
  | .status => s.statusWord
  | .intrState => s.intrStateWord
  | .intrEnable => s.intrEnableWord
  | .hosterr => s.hosterrWord
  | .lastcmd => s.lastCmd
  | .mrRounds => s.mrRounds

/-- A CMD write is an acceptance attempt: while busy the word is dropped and noted (10_state.md R44). -/
def State.writeCmd (s : State) (w : Word) : State :=
  if s.busy then s.noteOverrun else s.accept w

/-- A CTRL write with bit 0 set requests a soft reset: a hard reset while idle, refused and noted while
busy (R26, 70_reset_and_hazards.md R125). -/
def State.writeCtrl (s : State) (w : Word) : State :=
  if w.getLsbD 0 then (if s.busy then s.noteOverrun else s.hardReset) else s

/-- INTR_STATE: writing 1 to a bit clears it (10_state.md R34). -/
def State.writeIntrState (s : State) (w : Word) : State :=
  { s with intrDone := s.intrDone && !w.getLsbD 0, intrErr := s.intrErr && !w.getLsbD 1 }

/-- INTR_ENABLE: the two enable bits are stored, the reserved bits ignored (R35, R39). -/
def State.writeIntrEnable (s : State) (w : Word) : State :=
  { s with doneEn := w.getLsbD 0, errEn := w.getLsbD 1 }

/-- HOSTERR: writing 1 to a bit clears it (R36). -/
def State.writeHosterr (s : State) (w : Word) : State :=
  { s with overrun := s.overrun && !w.getLsbD 0, busyAcc := s.busyAcc && !w.getLsbD 1 }

/-- A write to a CSR; a read-only one ignores it (R40). -/
def State.writeCsr (s : State) (c : Csr) (w : Word) : State :=
  match c with
  | .id => s
  | .hwcfg => s
  | .ctrl => s.writeCtrl w
  | .cmd => s.writeCmd w
  | .status => s
  | .intrState => s.writeIntrState w
  | .intrEnable => s.writeIntrEnable w
  | .hosterr => s.writeHosterr w
  | .lastcmd => s
  | .mrRounds => s

/-- A host read: a CSR read changes nothing (20_memory.md R57); a window read returns the word while idle
(R51), and 0 with BUSYACC noted while busy (R52). -/
def State.hostRead (s : State) (width : Nat) (off : Offset) : Host.Outcome State Fault Refusal :=
  match accessTarget s.params width off with
  | none => .fault (.busError off)
  | some (.csr c) => .next (s.answer (.data (s.readCsr c)))
  | some (.window i j) =>
    if s.busy then .next (s.noteBusyAccess.answer (.data 0))
    else .next (s.answer (.data (wordOf s.params (s.reg i) j)))

/-- A host write: a CSR takes it as its rule says; a window word is stored while idle (R51), and dropped
with BUSYACC noted while busy (R52). -/
def State.hostWrite (s : State) (width : Nat) (off : Offset) (w : Word) :
    Host.Outcome State Fault Refusal :=
  match accessTarget s.params width off with
  | none => .fault (.busError off)
  | some (.csr c) => .next ((s.writeCsr c w).answer .written)
  | some (.window i j) =>
    if s.busy then .next (s.noteBusyAccess.answer .written)
    else .next ((s.setReg i (replaceWord s.params (s.reg i) j w)).answer .written)

end Sys2Proof.Machine
end

