-- ==== Sys2Proof/Machine/Arith.lean ====
section
/-! DEFINITION. The exact arithmetic of the command rules: exponentiation, batch squaring, decomposition, the witness
trial, and the rounds of the primality test. -/

namespace Sys2Proof.Machine

open Sys2Proof

/-- `bitlength(e)`: how often the loop of R89 runs. -/
def bitLength (e : Nat) : Nat := if e = 0 then 0 else e.log2 + 1

/-- The loop of POWMOD, right-to-left square-and-multiply (41_modular_arithmetic.md R89), with the number of
turns still allowed. -/
def powLoop (m : Nat) (fuel b e result : Nat) : Nat :=
  match fuel with
  | 0 => result
  | fuel + 1 =>
    if e = 0 then result
    else powLoop m fuel (b * b % m) (e / 2) (if e % 2 = 1 then result * b % m else result)

/-- `powMod(base, e, m)` for `m >= 1` (R89). -/
def powMod (base e m : Nat) : Nat := powLoop m (bitLength e) (base % m) e (1 % m)

/-- `repeat k times: v <- (v · v) mod m`, the loop of SQRN (R88). -/
def squareTimes (m : Nat) (k v : Nat) : Nat :=
  match k with
  | 0 => v
  | k + 1 => squareTimes m k (v * v % m)

/-- Takes factors of 2 out of `d`, counting them in `s`, while turns are left. -/
def stripTwos (fuel s d : Nat) : Nat × Nat :=
  match fuel with
  | 0 => (s, d)
  | fuel + 1 => if d % 2 = 0 then stripTwos fuel (s + 1) (d / 2) else (s, d)

/-- `Decomp(n) = (s, r)` with `n - 1 = 2^s · r` and `r` odd, for `n >= 2` (42_primality.md R92). -/
def decompose (n : Nat) : Nat × Nat := stripTwos (bitLength (n - 1)) 0 (n - 1)

/-- The squarings of a witness trial, `count` of them, looking for `n - 1` (R93). -/
def trialLoop (n : Nat) (count y : Nat) : Bool :=
  match count with
  | 0 => false
  | count + 1 => if y * y % n = n - 1 then true else trialLoop n count (y * y % n)

/-- `Trial(n, a)` for odd `n >= 5`: true means the round passes (R93). -/
def trial (n a : Nat) : Bool :=
  let sr := decompose n
  let y := powMod a sr.2 n
  if y = 1 ∨ y = n - 1 then true else trialLoop n (sr.1 - 1) y

/-- A verdict as the number a command writes: 1 when the round passes, 0 when composite (R93, R96). -/
def verdict (passes : Bool) : Nat := if passes then 1 else 0

/-- The rounds of MRTEST on an odd `n >= 5` (R97): at most `k` chained draws, ending at the first that
proves `n` composite. Answers the verdict, the number of draws made and the state they leave. -/
def mrRoundsLoop (p : Config.Params) (n k rounds : Nat) (st : Config.RngState) :
    Bool × Nat × Config.RngState :=
  match k with
  | 0 => (true, rounds, st)
  | k + 1 =>
    let d := Config.rngDraw p st n
    if trial n d.1 then mrRoundsLoop p n k (rounds + 1) d.2 else (false, rounds + 1, d.2)

/-- `isPrime(n, k)` with the random source of configuration `p` (R97): the short-circuits for 0, 1, 2, even `n` and 3, then the rounds. -/
def isPrime (p : Config.Params) (n k : Nat) (st : Config.RngState) : Bool × Nat × Config.RngState :=
  if n = 0 then (false, 0, st)
  else if n = 1 then (false, 0, st)
  else if n = 2 then (true, 0, st)
  else if n % 2 = 0 then (false, 0, st)
  else if n = 3 then (true, 0, st)
  else mrRoundsLoop p n k 0 st

end Sys2Proof.Machine
end

