-- ==== Sys2Proof/Machine/Modular.lean ====
section
/-! DEFINITION. The modular arithmetic commands MODRED, MODMUL, MODSQR, SQRN and POWMOD (41_modular_arithmetic.md). -/

namespace Sys2Proof.Machine

open Sys2Proof

/-- MODRED rd, ra, rm (41_modular_arithmetic.md R85). -/
def execModred (rd ra rm : Reg) (s : State) : Host.Outcome State Fault Refusal :=
  complete s (withModulus s rm fun m => s.okWrite rd (s.reg ra % m))

/-- MODMUL rd, ra, rb, rm (R86): the product at full width, then reduced. -/
def execModmul (rd ra rb rm : Reg) (s : State) : Host.Outcome State Fault Refusal :=
  complete s (withModulus s rm fun m => s.okWrite rd (s.reg ra * s.reg rb % m))

/-- MODSQR rd, ra, rm (R87). -/
def execModsqr (rd ra rm : Reg) (s : State) : Host.Outcome State Fault Refusal :=
  complete s (withModulus s rm fun m => s.okWrite rd (s.reg ra * s.reg ra % m))

/-- SQRN rd, ra, rm, k (R88): reduce, then exactly `k` squarings. -/
def execSqrn (rd ra rm : Reg) (k : Nat) (s : State) : Host.Outcome State Fault Refusal :=
  complete s (withModulus s rm fun m => s.okWrite rd (squareTimes m (immOperand k) (s.reg ra % m)))

/-- POWMOD rd, ra, rb, rm (R89): base `x[ra]`, exponent `x[rb]`, modulus `x[rm]`. -/
def execPowmod (rd ra rb rm : Reg) (s : State) : Host.Outcome State Fault Refusal :=
  complete s (withModulus s rm fun m => s.okWrite rd (powMod (s.reg ra) (s.reg rb) m))

end Sys2Proof.Machine
end

