-- ==== Sys2Proof/Machine/Primality.lean ====
section
/-! DEFINITION. The primality commands DECOMP, MRROUND and MRTEST (42_primality.md). -/

namespace Sys2Proof.Machine

open Sys2Proof

/-- DECOMP rd, rb, ra (42_primality.md R95): OPERAND before DOMAIN; `r` to `rd`, `s` to `rb`. -/
def execDecomp (rd rb ra : Reg) (s : State) : Host.Outcome State Fault Refusal :=
  complete s <|
    if rd = rb then .err .operand
    else if s.reg ra < 2 then .err .domain
    else
      let sr := decompose (s.reg ra)
      .ok [(rd, sr.2), (rb, sr.1)] (some sr.2) 0 s.rng

/-- MRROUND rd, ra, rb (R96): one trial of `n = x[ra]` with the base `x[rb]`. -/
def execMrround (rd ra rb : Reg) (s : State) : Host.Outcome State Fault Refusal :=
  complete s <|
    let n := s.reg ra
    let a := s.reg rb
    if n % 2 = 0 ∨ n < 5 ∨ a < 2 ∨ a > n - 2 then .err .domain
    else
      let v := verdict (trial n a)
      .ok [(rd, v)] (some v) 1 s.rng

/-- MRTEST rd, ra, k (R97): the random context is checked first, for every `n`. -/
def execMrtest (rd ra : Reg) (k : Nat) (s : State) : Host.Outcome State Fault Refusal :=
  complete s <|
    match s.rng with
    | none => .err .rngUnseeded
    | some st =>
      let t := isPrime s.params (s.reg ra) (immOperand k) st
      let v := verdict t.1
      .ok [(rd, v)] (some v) t.2.1 (some t.2.2)

end Sys2Proof.Machine
end

