-- ==== Sys2Proof/Machine/Random.lean ====
section
/-! DEFINITION. The random context commands SEED and UNSEED (43_random_context.md). -/

namespace Sys2Proof.Machine

open Sys2Proof

/-- SEED ra (43_random_context.md R102): the whole register is the seed; RNG_STATE if already seeded. -/
def execSeed (ra : Reg) (s : State) : Host.Outcome State Fault Refusal :=
  complete s <|
    match s.rng with
    | some _ => .err .rngState
    | none => .ok [] none 0 (some (Config.rngInit s.params (s.reg ra)))

/-- UNSEED (R103): RNG_STATE if not seeded. -/
def execUnseed (s : State) : Host.Outcome State Fault Refusal :=
  complete s <|
    match s.rng with
    | none => .err .rngState
    | some _ => .ok [] none 0 none

end Sys2Proof.Machine
end

