-- ==== Sys2Proof/Machine/Utility.lean ====
section
/-! DEFINITION. The utility commands NOP, MOV and LDI (40_utility.md). -/

namespace Sys2Proof.Machine

open Sys2Proof

/-- NOP (40_utility.md R77). -/
def execNop (s : State) : Host.Outcome State Fault Refusal :=
  complete s (.ok [] none 0 s.rng)

/-- MOV rd, ra (R78): the full register, unreduced. -/
def execMov (rd ra : Reg) (s : State) : Host.Outcome State Fault Refusal :=
  complete s (s.okWrite rd (s.reg ra))

/-- LDI rd, imm (R79). -/
def execLdi (rd : Reg) (imm : Nat) (s : State) : Host.Outcome State Fault Refusal :=
  complete s (s.okWrite rd (immOperand imm))

end Sys2Proof.Machine
end

