-- ==== Sys2Proof/Machine/Dispatch.lean ====
section
/-! DEFINITION. The dispatch of a command to its meaning, one arm for each constructor of Instr. -/

namespace Sys2Proof.Machine

open Sys2Proof

def exec (i : Instr) (s : State) : Host.Outcome State Fault Refusal :=
  match i with
  | .nop => Sys2Proof.Machine.execNop s
  | .mov rd ra => Sys2Proof.Machine.execMov rd ra s
  | .ldi rd imm => Sys2Proof.Machine.execLdi rd imm s
  | .modred rd ra rm => Sys2Proof.Machine.execModred rd ra rm s
  | .modmul rd ra rb rm => Sys2Proof.Machine.execModmul rd ra rb rm s
  | .modsqr rd ra rm => Sys2Proof.Machine.execModsqr rd ra rm s
  | .sqrn rd ra rm k => Sys2Proof.Machine.execSqrn rd ra rm k s
  | .powmod rd ra rb rm => Sys2Proof.Machine.execPowmod rd ra rb rm s
  | .decomp rd rb ra => Sys2Proof.Machine.execDecomp rd rb ra s
  | .mrround rd ra rb => Sys2Proof.Machine.execMrround rd ra rb s
  | .mrtest rd ra k => Sys2Proof.Machine.execMrtest rd ra k s
  | .seed ra => Sys2Proof.Machine.execSeed ra s
  | .unseed => Sys2Proof.Machine.execUnseed s

end Sys2Proof.Machine
end

