-- ==== Sys2Proof/Machine/Engine.lean ====
section
/-! DEFINITION. The engine's completion step, and one event of the interleaving of host, engine and reset source. -/

namespace Sys2Proof.Machine

open Sys2Proof

/-- Completion of the command in flight (10_state.md R45): LASTCMD selects the command rule; a reserved
opcode completes with ILLEGAL_OPCODE (30_encoding.md R70). -/
def State.completeCommand (s : State) : Host.Outcome State Fault Refusal :=
  match decode s.lastCmd with
  | .ok i => exec i s
  | .error (.reservedOpcode _) => complete s (.err .illegalOpcode)

/-- The engine's turn: completion is enabled exactly when BUSY is 1 (R45); an idle engine does nothing
(60_exceptions.md R122). -/
def State.engineTurn (s : State) : Host.Outcome State Fault Refusal :=
  if s.busy then s.completeCommand else .next s

/-- One event, an atomic step of its own (60_exceptions.md R113). -/
def State.runEvent (s : State) (e : Event) : Host.Outcome State Fault Refusal :=
  match e with
  | .hostRead width off => s.hostRead width off
  | .hostWrite width off w => s.hostWrite width off w
  | .engine => s.engineTurn
  | .hardReset => .next s.hardReset

/-- The next event of the interleaving (20_memory.md R59). When none is scheduled the host is silent and the
engine has the turn, so that an accepted command completes (10_state.md R47). -/
def State.turn (s : State) : Host.Outcome State Fault Refusal :=
  match s.schedule with
  | [] => s.engineTurn
  | e :: rest => State.runEvent { s with schedule := rest } e

/-- The command word `w` is in flight, as its acceptance leaves it (R44), and the engine has the next turn. -/
def State.withCommand (s : State) (w : Word) : State :=
  { s.accept w with schedule := .engine :: s.schedule }

end Sys2Proof.Machine
end

