-- ==== Sys2Proof/Machine/Step.lean ====
section
/-! DEFINITION. One step of the machine, and how a command word is placed so that the next step runs it. -/

namespace Sys2Proof.Machine

open Sys2Proof

/-- One step: the next event of the interleaving of host, engine and reset source. -/
def step (s : State) : Host.Outcome State Fault Refusal := s.turn

/-- `s` with a command word in flight and the engine's turn next. MEXP1 fetches no instruction
(10_state.md R22): the host's CMD write carries the command, so this stands for that write. -/
def State.withFetchWord (s : State) (nbits w : Nat) : State :=
  s.withCommand (BitVec.ofNat 32 (w % 2 ^ nbits))

end Sys2Proof.Machine
end

