-- ==== Sys2Proof/Machine/Assembly.lean ====
section
/-! DEFINITION. The assembler of 30_encoding.md section 5: one line of text to one command, pseudo-commands
expanded. It is the host's tool and no part of a step. -/

namespace Sys2Proof.Machine

open Sys2Proof

/-- A pseudo-command, a spelling of exactly one real command (30_encoding.md R74). -/
inductive Pseudo where
  | clr (rd : Reg)
  | isprime (rd ra : Reg) (k : Nat)
  | encrypt (rd ra rn : Reg)
  | decrypt (rd ra rb rm : Reg)
deriving DecidableEq, Repr

/-- The expansion of a pseudo-command (R74). -/
def Pseudo.expand (p : Pseudo) : Instr :=
  match p with
  | .clr rd => .ldi rd 0
  | .isprime rd ra k => .mrtest rd ra k
  | .encrypt rd ra rn => .powmod rd ra rn rn
  | .decrypt rd ra rb rm => .powmod rd ra rb rm

/-- White space within a line. -/
def isBlank (c : Char) : Bool := c = ' ' || c = '\t'

/-- Text without the white space at its ends. -/
def trimBlanks (l : List Char) : List Char :=
  ((l.dropWhile isBlank).reverse.dropWhile isBlank).reverse

/-- The operands of a line, separated by commas (R73). -/
def splitCommas (l : List Char) : List (List Char) :=
  match l with
  | [] => [[]]
  | c :: rest =>
    match splitCommas rest with
    | [] => [[c]]
    | first :: more => if c = ',' then [] :: first :: more else (c :: first) :: more

/-- A register is written `r0` to `r7` (R73). -/
def parseReg (l : List Char) : Option Reg :=
  match l with
  | ['r', d] => if '0'.toNat ≤ d.toNat ∧ d.toNat ≤ '7'.toNat then some (Fin.ofNat 8 (d.toNat - '0'.toNat)) else none
  | _ => none

/-- The value of one digit, decimal or hexadecimal. -/
def digitValue (c : Char) : Option Nat :=
  if '0'.toNat ≤ c.toNat ∧ c.toNat ≤ '9'.toNat then some (c.toNat - '0'.toNat)
  else if 'a'.toNat ≤ c.toNat ∧ c.toNat ≤ 'f'.toNat then some (c.toNat - 'a'.toNat + 10)
  else if 'A'.toNat ≤ c.toNat ∧ c.toNat ≤ 'F'.toNat then some (c.toNat - 'A'.toNat + 10)
  else none

/-- Digits in a base, the value so far given. -/
def parseDigits (base acc : Nat) (l : List Char) : Option Nat :=
  match l with
  | [] => some acc
  | c :: rest =>
    match digitValue c with
    | some d => if d < base then parseDigits base (acc * base + d) rest else none
    | none => none

/-- An immediate: decimal or `0x` hexadecimal, in 0..16383, or the assembler rejects the line (R73). -/
def parseImm (l : List Char) : Option Nat :=
  let value :=
    match l with
    | [] => none
    | ['0', 'x'] => none
    | '0' :: 'x' :: digits => parseDigits 16 0 digits
    | _ => parseDigits 10 0 l
  value.filter immFits

/-- The command a mnemonic and its operands name, in the operand order of R73 and R74. -/
def assembleOperands (mnemonic : List Char) (operands : List (List Char)) : Option Instr :=
  match mnemonic, operands with
  | ['n', 'o', 'p'], [] => some .nop
  | ['m', 'o', 'v'], [d, a] => do some (.mov (← parseReg d) (← parseReg a))
  | ['l', 'd', 'i'], [d, k] => do some (.ldi (← parseReg d) (← parseImm k))
  | ['m', 'o', 'd', 'r', 'e', 'd'], [d, a, m] => do
    some (.modred (← parseReg d) (← parseReg a) (← parseReg m))
  | ['m', 'o', 'd', 'm', 'u', 'l'], [d, a, b, m] => do
    some (.modmul (← parseReg d) (← parseReg a) (← parseReg b) (← parseReg m))
  | ['m', 'o', 'd', 's', 'q', 'r'], [d, a, m] => do
    some (.modsqr (← parseReg d) (← parseReg a) (← parseReg m))
  | ['s', 'q', 'r', 'n'], [d, a, m, k] => do
    some (.sqrn (← parseReg d) (← parseReg a) (← parseReg m) (← parseImm k))
  | ['p', 'o', 'w', 'm', 'o', 'd'], [d, a, b, m] => do
    some (.powmod (← parseReg d) (← parseReg a) (← parseReg b) (← parseReg m))
  | ['d', 'e', 'c', 'o', 'm', 'p'], [d, b, a] => do
    some (.decomp (← parseReg d) (← parseReg b) (← parseReg a))
  | ['m', 'r', 'r', 'o', 'u', 'n', 'd'], [d, a, b] => do
    some (.mrround (← parseReg d) (← parseReg a) (← parseReg b))
  | ['m', 'r', 't', 'e', 's', 't'], [d, a, k] => do
    some (.mrtest (← parseReg d) (← parseReg a) (← parseImm k))
  | ['s', 'e', 'e', 'd'], [a] => do some (.seed (← parseReg a))
  | ['u', 'n', 's', 'e', 'e', 'd'], [] => some .unseed
  | ['c', 'l', 'r'], [d] => do some (Pseudo.clr (← parseReg d)).expand
  | ['i', 's', 'p', 'r', 'i', 'm', 'e'], [d, a, k] => do
    some (Pseudo.isprime (← parseReg d) (← parseReg a) (← parseImm k)).expand
  | ['e', 'n', 'c', 'r', 'y', 'p', 't'], [d, a, n] => do
    some (Pseudo.encrypt (← parseReg d) (← parseReg a) (← parseReg n)).expand
  | ['d', 'e', 'c', 'r', 'y', 'p', 't'], [d, a, b, m] => do
    some (Pseudo.decrypt (← parseReg d) (← parseReg a) (← parseReg b) (← parseReg m)).expand
  | _, _ => none

/-- One assembly line (R73): a mnemonic in any case, then operands separated by commas; a `;` starts a
comment. The outer `none` is a rejected line, the inner one a line with no command. -/
def assembleLine (line : List Char) : Option (Option Instr) :=
  let text := trimBlanks (line.takeWhile (· != ';'))
  let mnemonic := (text.takeWhile (!isBlank ·)).map Char.toLower
  let operands := trimBlanks (text.dropWhile (!isBlank ·))
  if text = [] then some none
  else
    (assembleOperands mnemonic
      (if operands = [] then [] else (splitCommas operands).map trimBlanks)).map some

end Sys2Proof.Machine
end

