-- ==== Sys2Proof/Machine/Script.lean ====
section
/-! DEFINITION. The host-script notation of 30_encoding.md R76 as lists of events. It is the host's notation
and no part of a step. -/

namespace Sys2Proof.Machine

open Sys2Proof

/-- One line of a host script (30_encoding.md R76), or a turn of the engine between two lines.

The spec leaves open when a completion falls: at any point between two host accesses after the acceptance
(10_state.md R45, R47, 20_memory.md R59). DESIGN CHOICE, see notes/assumptions/15.md: the script says where.
`engine` is no line of R76 and no access of the host; it is one turn of the engine, and may stand between any
two lines, so that a script with such turns in it yields every interleaving R59 admits. Inside a WOP or a ROP
a turn is placed by writing the line as the single W or R accesses that R76 says it is. A script without such
turns yields only the runs in which every completion falls in a WAIT, or after the script.

`wait` carries how often its loop still reads BUSY = 1: 0 where the completion has already come. A larger
number while idle is no run of the loop. -/
inductive ScriptLine where
  | w (off : Offset) (v : Word)
  | r (off : Offset)
  | wop (i : Reg) (v : Nat)
  | rop (i : Reg)
  | c (i : Instr)
  | wait (polls : Nat)
  | engine
deriving DecidableEq, Repr

/-- The offset of word `j` of `ri`: `OPB(i) + 4j` (20_memory.md R51). -/
def wordOffset (p : Config.Params) (i : Reg) (j : Nat) : Offset := BitVec.ofNat 14 (opb p i + 4 * j)

/-- The accesses of a line, in order (R76); those of a register go most significant word first. A WAIT gives the
engine a turn before its last read, which does nothing if the command has completed by then (DESIGN CHOICE,
notes/assumptions/15.md). -/
def ScriptLine.events (p : Config.Params) (l : ScriptLine) : List Event :=
  match l with
  | .w off v => [.hostWrite 32 off v]
  | .r off => [.hostRead 32 off]
  | .wop i v => (List.range p.words).map fun j => .hostWrite 32 (wordOffset p i j) (wordOf p v j)
  | .rop i => (List.range p.words).map fun j => .hostRead 32 (wordOffset p i j)
  | .c i => [.hostWrite 32 0x00C (encode i)]
  | .wait polls => List.replicate polls (.hostRead 32 0x010) ++ [.engine, .hostRead 32 0x010]
  | .engine => [.engine]

/-- The machine with a host script still to come after the events already scheduled. Each completion falls where
the script has a turn of the engine, or after its end (DESIGN CHOICE, notes/assumptions/15.md). -/
def State.withScript (s : State) (script : List ScriptLine) : State :=
  { s with schedule := s.schedule ++ script.flatMap (ScriptLine.events s.params) }

end Sys2Proof.Machine
end

