-- ==== Sys2Proof/Safety.lean ====
section
/-! DEFINITION. What claims about MEXP1 speak of: a consistent state, a legal and a well-behaved host access, the
outcome of a command written out field by field, and the bases a primality test draws. -/

namespace Sys2Proof.Machine

open Sys2Proof

/-- A state the machine can be in. Each clause is a promise of the spec about the whole machine. -/
structure State.Inv (s : State) : Prop where
  /-- Every operand register is below `2^WBITS` (10_state.md R19, R21). -/
  regsFit : ∀ i : Reg, s.reg i < 2 ^ s.params.wbits
  /-- At most one of DONE and ERR is 1 (R30). -/
  oneReport : ¬(s.done = true ∧ s.err = true)
  /-- While BUSY is 1, DONE and ERR are 0 (R30), and Z, ERRCODE and MR_ROUNDS are as the acceptance left
  them (R44). -/
  busyClear : s.busy = true →
    s.done = false ∧ s.err = false ∧ s.z = false ∧ s.errcode = 0 ∧ s.mrRounds = 0
  /-- Codes 7 to 15 are never produced (R33, 60_exceptions.md R106). -/
  codeKnown : s.errcode.toNat ≤ 6
  /-- ERRCODE is nonzero exactly after an error completion (R33). -/
  codeIffErr : s.errcode ≠ 0 ↔ s.err = true
  /-- Z is 1 only after a success (R31). -/
  zOfSuccess : s.z = true → s.done = true
  /-- MR_ROUNDS is nonzero only after a success (R38). -/
  roundsOfSuccess : s.mrRounds ≠ 0 → s.done = true
  /-- MR_ROUNDS never exceeds the largest iteration count (30_encoding.md R68, R38). -/
  roundsBound : s.mrRounds.toNat ≤ 16383

/-- A success that wrote `v` to `rd` and nothing else: Z tells whether `v` is 0, MR_ROUNDS is 0, the done
flags are set and BUSY is 0 (10_state.md R45). Every other field is as before. -/
def State.written (s : State) (rd : Reg) (v : Nat) : State :=
  { s with
    x := s.x.set rd.val v rd.isLt, z := decide (v = 0), mrRounds := 0,
    done := true, intrDone := true, busy := false }

/-- A success that wrote no register: Z and MR_ROUNDS are 0 (R31, R45); `rng` is the random context after. -/
def State.doneWithout (s : State) (rng : Option Config.RngState) : State :=
  { s with rng := rng, z := false, mrRounds := 0, done := true, intrDone := true, busy := false }

/-- An error with a code: the error flags are set and BUSY is 0, and every other field is as before
(60_exceptions.md R107). -/
def State.failed (s : State) (code : BitVec 4) : State :=
  { s with err := true, errcode := code, intrErr := true, busy := false }

/-- The engine has the next turn, and `rest` is what comes after it: its event is scheduled next, or no event
is scheduled and the host is silent (10_state.md R47, notes/assumptions/2.md). -/
def EngineNext (s : State) (rest : List Event) : Prop :=
  s.schedule = .engine :: rest ∨ (s.schedule = [] ∧ rest = [])

/-- The next event is a hard reset, or a soft reset request that is granted (70_reset_and_hazards.md R124, R125). -/
def ResetNext (s : State) : Prop :=
  (∃ rest, s.schedule = .hardReset :: rest) ∨
    (s.busy = false ∧ ∃ w rest, w.getLsbD 0 = true ∧ s.schedule = .hostWrite 32 0x008 w :: rest)

/-- The operand registers a command's rule names as destinations (30_encoding.md R69). -/
def destinations (i : Instr) : List Reg :=
  match i with
  | .nop => []
  | .mov rd _ => [rd]
  | .ldi rd _ => [rd]
  | .modred rd _ _ => [rd]
  | .modmul rd _ _ _ => [rd]
  | .modsqr rd _ _ => [rd]
  | .sqrn rd _ _ _ => [rd]
  | .powmod rd _ _ _ => [rd]
  | .decomp rd rb _ => [rd, rb]
  | .mrround rd _ _ => [rd]
  | .mrtest rd _ _ => [rd]
  | .seed _ => []
  | .unseed => []

/-- The commands whose rules may change the random context (10_state.md R41). -/
def usesRandomContext (i : Instr) : Bool :=
  match i with
  | .nop => false
  | .mov _ _ => false
  | .ldi _ _ => false
  | .modred _ _ _ => false
  | .modmul _ _ _ _ => false
  | .modsqr _ _ _ => false
  | .sqrn _ _ _ _ => false
  | .powmod _ _ _ _ => false
  | .decomp _ _ _ => false
  | .mrround _ _ _ => false
  | .mrtest _ _ _ => true
  | .seed _ => true
  | .unseed => true

/-- An offset of the address map's two mapped ranges (20_memory.md R50). -/
def Mapped (p : Config.Params) (off : Offset) : Prop :=
  off.toNat < 0x28 ∨ (0x1000 ≤ off.toNat ∧ off.toNat < 0x1000 + p.wbits)

/-- An offset inside the operand window (R50). -/
def InWindow (p : Config.Params) (off : Offset) : Prop :=
  0x1000 ≤ off.toNat ∧ off.toNat < 0x1000 + p.wbits

/-- An access that gets no bus error: 32 bits wide, aligned and mapped (60_exceptions.md R109). -/
def LegalAccess (p : Config.Params) (width : Nat) (off : Offset) : Prop :=
  width = 32 ∧ off.toNat % 4 = 0 ∧ Mapped p off

/-- The next event is a CMD write, or a CTRL write that requests a reset, and is dropped because the engine is
busy: what sets HOSTERR.OVERRUN (10_state.md R36). -/
def DroppedRequest (s : State) : Prop :=
  s.busy = true ∧ ∃ w rest, s.schedule = .hostWrite 32 0x00C w :: rest ∨
    (w.getLsbD 0 = true ∧ s.schedule = .hostWrite 32 0x008 w :: rest)

/-- The next event is an aligned 32-bit access of the operand window, and is dropped because the engine is busy:
what sets HOSTERR.BUSYACC (R36, 20_memory.md R52). -/
def DroppedWindowAccess (s : State) : Prop :=
  s.busy = true ∧ ∃ off rest, InWindow s.params off ∧ off.toNat % 4 = 0 ∧
    (s.schedule = .hostRead 32 off :: rest ∨ ∃ w, s.schedule = .hostWrite 32 off w :: rest)

/-- An event that is no bus error. -/
def Event.Legal (p : Config.Params) (e : Event) : Prop :=
  match e with
  | .hostRead width off => LegalAccess p width off
  | .hostWrite width off _ => LegalAccess p width off
  | .engine => True
  | .hardReset => True

/-- An event of the host, not of the engine or of the reset source. -/
def Event.IsHost (e : Event) : Prop :=
  match e with
  | .hostRead _ _ => True
  | .hostWrite _ _ _ => True
  | .engine => False
  | .hardReset => False

/-- `k` steps, stopping at a fault or a refusal. -/
def runSteps (k : Nat) (s : State) : Host.Outcome State Fault Refusal :=
  match k with
  | 0 => .next s
  | k + 1 =>
    match step s with
    | .next t => runSteps k t
    | .fault r => .fault r
    | .refused r => .refused r

/-- The state of the random source after `j` chained draws for `n` (43_random_context.md R99). -/
def stateAfter (p : Config.Params) (st : Config.RngState) (n j : Nat) : Config.RngState :=
  match j with
  | 0 => st
  | j + 1 => (Config.rngDraw p (stateAfter p st n j) n).2

/-- The base of draw number `j` for `n`, counting from 0 (R99). -/
def baseAt (p : Config.Params) (st : Config.RngState) (n j : Nat) : Nat :=
  (Config.rngDraw p (stateAfter p st n j) n).1

end Sys2Proof.Machine
end

