-- ==== Sys2Proof/Certificates/Slice0/Obligations.lean ====
section
/-! DEFINITION. The statements about MEXP1, each from the rules of the spec that its docstring names. -/

open Sys2Proof Sys2Proof.Machine

/-! ## Encoding -/

/-- Words written out in the spec decode to the commands it gives them for (95_test_vectors.md section 2). -/
def Obligations.SpecWordsDecode : Prop :=
  decode 0x00000000 = .ok .nop ∧ decode 0x03FFFFFF = .ok .nop ∧
  decode 0x06A00000 = .ok (.mov 5 2) ∧ decode 0x0880000D = .ok (.ldi 1 13) ∧
  decode 0x21808000 = .ok (.modred 3 0 2) ∧ decode 0x25828000 = .ok (.modmul 3 0 1 2) ∧
  decode 0x31828000 = .ok (.powmod 3 0 1 2) ∧ decode 0x40840000 = .ok (.decomp 1 2 0) ∧
  decode 0x45020000 = .ok (.mrround 2 0 1) ∧ decode 0x48800032 = .ok (.mrtest 1 0 50) ∧
  decode 0x60400000 = .ok (.seed 4) ∧ decode 0x64000000 = .ok .unseed ∧
  decode 0x0C000000 = .error (.reservedOpcode 0x03)

/-- Decoding the canonical word of a well-formed command gives the command back, with every operand. -/
def Obligations.DecodeOfEncodeGivesTheCommandBack : Prop :=
  ∀ i : Instr, i.WellFormed → decode (encode i) = .ok i

/-- A decoded command is well formed and is the one its opcode field selects. -/
def Obligations.DecodedCommandsAreWellFormed : Prop :=
  ∀ (w : Word) (i : Instr), decode w = .ok i → i.WellFormed ∧ i.opcode = slice w.toNat 31 26

/-- R70: a word is rejected exactly when its opcode is reserved; such a word is accepted like any other, and
then completes with ILLEGAL_OPCODE and changes no operand register and no random context. -/
def Obligations.ReservedOpcodesCompleteWithIllegalOpcode : Prop :=
  (∀ w : Word, (∃ e, decode w = .error e) ↔ ReservedOpcode (slice w.toNat 31 26)) ∧
  ∀ (s : State) (w : Word) (rest : List Event), ReservedOpcode (slice w.toNat 31 26) →
    (s.busy = false → s.schedule = .hostWrite 32 0x00C w :: rest →
      step s = .next
        { s with
          lastCmd := w, done := false, err := false, errcode := 0, z := false, mrRounds := 0,
          busy := true, schedule := rest, replies := .written :: s.replies }) ∧
    (s.busy = true → s.lastCmd = w → EngineNext s rest →
      step s = .next
        { s with err := true, errcode := 1, intrErr := true, busy := false, schedule := rest })

/-! ## The step -/

/-- The engine's turn on a command in flight is `exec` of the decoded command; so is the step after a command
word is placed, on the state its acceptance leaves. The schedule is the model's own (assumptions 2 and 6). -/
def Obligations.StepRunsTheDecodedCommand : Prop :=
  ∀ (s : State) (w : Word) (i : Instr) (rest : List Event), decode w = .ok i →
    (s.busy = true → s.lastCmd = w → EngineNext s rest →
      step s = exec i { s with schedule := rest }) ∧
    step (s.withFetchWord 32 w.toNat) = exec i
      { s with
        lastCmd := w, done := false, err := false, errcode := 0, z := false, mrRounds := 0,
        busy := true }

/-- An idle engine's turn changes nothing but the schedule (R45, R122). -/
def Obligations.AnIdleEngineDoesNothing : Prop :=
  ∀ (s : State) (rest : List Event), s.busy = false → EngineNext s rest →
    step s = .next { s with schedule := rest }

/-- R47: an accepted command completes. Once the scheduled events are over, at most one more step leaves the
engine idle, if every scheduled access is legal. The list of events is the model's own (assumption 2). -/
def Obligations.EveryAcceptedCommandCompletes : Prop :=
  ∀ s : State, (∀ e ∈ s.schedule, e.Legal s.params) →
    ∃ t : State, runSteps (s.schedule.length + 1) s = .next t ∧ t.busy = false ∧ t.schedule = []

/-! ## Commands -/

/-- R77: NOP. -/
def Obligations.NopOnlyReportsDone : Prop :=
  ∀ (s : State) (rd ra rb rm : Reg) (imm : Nat), imm ≤ 16383 →
    decode (commandWord 0x00 rd ra rb rm imm) = .ok .nop ∧
    exec .nop s = .next (s.doneWithout s.rng)

/-- R78: MOV. -/
def Obligations.MovCopiesTheRegister : Prop :=
  ∀ (s : State) (rd ra rb rm : Reg) (imm : Nat), imm ≤ 16383 →
    decode (commandWord 0x01 rd ra rb rm imm) = .ok (.mov rd ra) ∧
    exec (.mov rd ra) s = .next (s.written rd (s.reg ra))

/-- R79: LDI. -/
def Obligations.LdiWritesTheImmediate : Prop :=
  ∀ (s : State) (rd ra rb rm : Reg) (imm : Nat), imm ≤ 16383 →
    decode (commandWord 0x02 rd ra rb rm imm) = .ok (.ldi rd imm) ∧
    exec (.ldi rd imm) s = .next (s.written rd imm)

/-- R85: MODRED. -/
def Obligations.ModredWritesTheRemainder : Prop :=
  ∀ (s : State) (rd ra rb rm : Reg) (imm : Nat), imm ≤ 16383 →
    decode (commandWord 0x08 rd ra rb rm imm) = .ok (.modred rd ra rm) ∧
    (s.reg rm = 0 → exec (.modred rd ra rm) s = .next (s.failed 2)) ∧
    (s.reg rm ≠ 0 → exec (.modred rd ra rm) s = .next (s.written rd (s.reg ra % s.reg rm)))

/-- R86: MODMUL. -/
def Obligations.ModmulWritesTheReducedProduct : Prop :=
  ∀ (s : State) (rd ra rb rm : Reg) (imm : Nat), imm ≤ 16383 →
    decode (commandWord 0x09 rd ra rb rm imm) = .ok (.modmul rd ra rb rm) ∧
    (s.reg rm = 0 → exec (.modmul rd ra rb rm) s = .next (s.failed 2)) ∧
    (s.reg rm ≠ 0 →
      exec (.modmul rd ra rb rm) s = .next (s.written rd (s.reg ra * s.reg rb % s.reg rm)))

/-- R87: MODSQR; the result is also that of MODMUL with the operand twice and of SQRN with k = 1. -/
def Obligations.ModsqrWritesTheReducedSquare : Prop :=
  ∀ (s : State) (rd ra rb rm : Reg) (imm : Nat), imm ≤ 16383 →
    decode (commandWord 0x0A rd ra rb rm imm) = .ok (.modsqr rd ra rm) ∧
    (s.reg rm = 0 → exec (.modsqr rd ra rm) s = .next (s.failed 2)) ∧
    (s.reg rm ≠ 0 → exec (.modsqr rd ra rm) s = .next (s.written rd (s.reg ra ^ 2 % s.reg rm))) ∧
    exec (.modsqr rd ra rm) s = exec (.modmul rd ra ra rm) s ∧
    exec (.modsqr rd ra rm) s = exec (.sqrn rd ra rm 1) s

/-- R88: SQRN writes `x[ra]^(2^k) mod m`. -/
def Obligations.SqrnWritesTheIteratedSquare : Prop :=
  ∀ (s : State) (rd ra rb rm : Reg) (k : Nat), k ≤ 16383 →
    decode (commandWord 0x0B rd ra rb rm k) = .ok (.sqrn rd ra rm k) ∧
    (s.reg rm = 0 → exec (.sqrn rd ra rm k) s = .next (s.failed 2)) ∧
    (s.reg rm ≠ 0 →
      exec (.sqrn rd ra rm k) s = .next (s.written rd (s.reg ra ^ 2 ^ k % s.reg rm)))

/-- R89, R90: POWMOD writes exactly `(x[ra]^x[rb]) mod m`. -/
def Obligations.PowmodWritesThePower : Prop :=
  ∀ (s : State) (rd ra rb rm : Reg) (imm : Nat), imm ≤ 16383 →
    decode (commandWord 0x0C rd ra rb rm imm) = .ok (.powmod rd ra rb rm) ∧
    (s.reg rm = 0 → exec (.powmod rd ra rb rm) s = .next (s.failed 2)) ∧
    (s.reg rm ≠ 0 →
      exec (.powmod rd ra rb rm) s = .next (s.written rd (s.reg ra ^ s.reg rb % s.reg rm)))

/-- R83: with modulus 1 every command of the modular family writes 0. -/
def Obligations.ModulusOneGivesZero : Prop :=
  ∀ (s : State) (rd ra rb rm : Reg) (k : Nat), s.reg rm = 1 →
    exec (.modred rd ra rm) s = .next (s.written rd 0) ∧
    exec (.modmul rd ra rb rm) s = .next (s.written rd 0) ∧
    exec (.modsqr rd ra rm) s = .next (s.written rd 0) ∧
    exec (.sqrn rd ra rm k) s = .next (s.written rd 0) ∧
    exec (.powmod rd ra rb rm) s = .next (s.written rd 0)

/-- R92: the decomposition `n - 1 = 2^s · r` with `r` odd, and its bounds. -/
def Obligations.DecomposeSplitsOffTheTwos : Prop :=
  ∀ n : Nat, 2 ≤ n →
    n - 1 = 2 ^ (decompose n).1 * (decompose n).2 ∧ (decompose n).2 % 2 = 1 ∧
    (∀ t, 2 ^ t ∣ n - 1 ↔ t ≤ (decompose n).1) ∧
    1 ≤ (decompose n).2 ∧ (decompose n).2 ≤ n - 1 ∧
    (∀ p : Config.Params, n < 2 ^ p.wbits → (decompose n).1 ≤ p.wbits - 1) ∧
    (n % 2 = 0 → decompose n = (0, n - 1))

/-- R95: DECOMP; OPERAND is checked before DOMAIN. -/
def Obligations.DecompWritesTheOddPartAndTheExponent : Prop :=
  ∀ (s : State) (rd ra rb rm : Reg) (imm : Nat), imm ≤ 16383 →
    decode (commandWord 0x10 rd ra rb rm imm) = .ok (.decomp rd rb ra) ∧
    (rd = rb → exec (.decomp rd rb ra) s = .next (s.failed 4)) ∧
    (rd ≠ rb → s.reg ra < 2 → exec (.decomp rd rb ra) s = .next (s.failed 3)) ∧
    (rd ≠ rb → 2 ≤ s.reg ra → ∃ k r : Nat, s.reg ra - 1 = 2 ^ k * r ∧ r % 2 = 1 ∧
      exec (.decomp rd rb ra) s = .next
        { s.written rd r with x := (s.x.set rd.val r rd.isLt).set rb.val k rb.isLt })

/-- R93: for odd `n >= 5` the trial passes exactly when `a^r` is 1 or `n - 1`, or one of its `s - 1` squarings
is `n - 1`. -/
def Obligations.TrialFindsOneOrMinusOne : Prop :=
  ∀ n a s r : Nat, n % 2 = 1 → 5 ≤ n → n - 1 = 2 ^ s * r → r % 2 = 1 →
    (trial n a = true ↔
      a ^ r % n = 1 ∨ a ^ r % n = n - 1 ∨ ∃ j, 1 ≤ j ∧ j ≤ s - 1 ∧ a ^ (2 ^ j * r) % n = n - 1)

/-- R94: for a prime every base of the range passes the trial. -/
def Obligations.PrimesPassEveryTrial : Prop :=
  ∀ n a : Nat, n.Prime → 5 ≤ n → 2 ≤ a → a ≤ n - 2 → trial n a = true

/-- R94, R96: a trial that fails proves its odd number composite. -/
def Obligations.FailedTrialsProveComposite : Prop :=
  ∀ n a : Nat, n % 2 = 1 → 5 ≤ n → 2 ≤ a → a ≤ n - 2 → trial n a = false →
    ∃ b c : Nat, 1 < b ∧ 1 < c ∧ n = b * c

/-- R96: MRROUND. -/
def Obligations.MrroundWritesTheVerdictOfOneTrial : Prop :=
  ∀ (s : State) (rd ra rb rm : Reg) (imm : Nat), imm ≤ 16383 →
    decode (commandWord 0x11 rd ra rb rm imm) = .ok (.mrround rd ra rb) ∧
    ((s.reg ra % 2 = 0 ∨ s.reg ra < 5 ∨ s.reg rb < 2 ∨ s.reg ra - 2 < s.reg rb) →
      exec (.mrround rd ra rb) s = .next (s.failed 3)) ∧
    (s.reg ra % 2 = 1 → 5 ≤ s.reg ra → 2 ≤ s.reg rb → s.reg rb ≤ s.reg ra - 2 →
      (trial (s.reg ra) (s.reg rb) = true →
        exec (.mrround rd ra rb) s = .next { s.written rd 1 with mrRounds := 1 }) ∧
      (trial (s.reg ra) (s.reg rb) = false →
        exec (.mrround rd ra rb) s = .next { s.written rd 0 with mrRounds := 1 }))

/-- R97: MRTEST. The context is checked first; the short-circuits make no draw; else at most `k` chained draws
are made, up to the first base that proves `n` composite. -/
def Obligations.MrtestRunsTheRoundsItNeeds : Prop :=
  ∀ (s : State) (rd ra rb rm : Reg) (k : Nat), k ≤ 16383 →
    decode (commandWord 0x12 rd ra rb rm k) = .ok (.mrtest rd ra k) ∧
    (s.rng = none → exec (.mrtest rd ra k) s = .next (s.failed 5)) ∧
    ∀ st, s.rng = some st →
      ((s.reg ra = 0 ∨ s.reg ra = 1 ∨ (s.reg ra % 2 = 0 ∧ 2 < s.reg ra)) →
        exec (.mrtest rd ra k) s = .next (s.written rd 0)) ∧
      ((s.reg ra = 2 ∨ s.reg ra = 3) → exec (.mrtest rd ra k) s = .next (s.written rd 1)) ∧
      (s.reg ra % 2 = 1 → 5 ≤ s.reg ra →
        ((∀ j < k, trial (s.reg ra) (baseAt s.params st (s.reg ra) j) = true) →
          exec (.mrtest rd ra k) s = .next
            { s.written rd 1 with
              mrRounds := BitVec.ofNat 32 k, rng := some (stateAfter s.params st (s.reg ra) k) }) ∧
        ∀ j < k, (∀ l < j, trial (s.reg ra) (baseAt s.params st (s.reg ra) l) = true) →
          trial (s.reg ra) (baseAt s.params st (s.reg ra) j) = false →
          exec (.mrtest rd ra k) s = .next
            { s.written rd 0 with
              mrRounds := BitVec.ofNat 32 (j + 1), rng := some (stateAfter s.params st (s.reg ra) (j + 1)) })

/-- R97, R98: a prime `n >= 5` passes with `k` rounds whatever the random source draws. -/
def Obligations.MrtestAcceptsEveryPrime : Prop :=
  ∀ (s : State) (rd ra : Reg) (k : Nat) (st : Config.RngState), k ≤ 16383 → s.rng = some st →
    (s.reg ra).Prime → 5 ≤ s.reg ra →
    exec (.mrtest rd ra k) s = .next
      { s.written rd 1 with
        mrRounds := BitVec.ofNat 32 k, rng := some (stateAfter s.params st (s.reg ra) k) }

/-- R97: verdict 0 of MRTEST on an odd number of 5 or more proves it composite, whatever was drawn. -/
def Obligations.MrtestRejectsOnlyComposites : Prop :=
  ∀ (s t : State) (rd ra : Reg) (k : Nat), exec (.mrtest rd ra k) s = .next t → s.rng.isSome = true →
    5 ≤ s.reg ra → t.reg rd = 0 → ∃ b c : Nat, 1 < b ∧ 1 < c ∧ s.reg ra = b * c

/-- R102: SEED. -/
def Obligations.SeedInitialisesOnce : Prop :=
  ∀ (s : State) (rd ra rb rm : Reg) (imm : Nat), imm ≤ 16383 →
    decode (commandWord 0x18 rd ra rb rm imm) = .ok (.seed ra) ∧
    (s.rng = none →
      exec (.seed ra) s = .next (s.doneWithout (some (Config.rngInit s.params (s.reg ra))))) ∧
    (∀ st, s.rng = some st → exec (.seed ra) s = .next (s.failed 6))

/-- R103: UNSEED. -/
def Obligations.UnseedTearsDownOnce : Prop :=
  ∀ (s : State) (rd ra rb rm : Reg) (imm : Nat), imm ≤ 16383 →
    decode (commandWord 0x19 rd ra rb rm imm) = .ok .unseed ∧
    (∀ st, s.rng = some st → exec .unseed s = .next (s.doneWithout none)) ∧
    (s.rng = none → exec .unseed s = .next (s.failed 6))

/-- R100: the range law of a draw. -/
def Obligations.DrawsLieInTheBaseRange : Prop :=
  ∀ (p : Config.Params) (st : Config.RngState) (n : Nat), n % 2 = 1 → 5 ≤ n →
    2 ≤ (Config.rngDraw p st n).1 ∧ (Config.rngDraw p st n).1 ≤ n - 2

/-! ## Every command -/

/-- R45, R107: every command completes, as a success or as one precise error; in each case what is not named
stays. An error changes only its report; a success leaves the error flags, the enables, HOSTERR, LASTCMD, the
configuration, the schedule and the replies alone. -/
def Obligations.EveryCommandSucceedsOrReportsOneError : Prop :=
  ∀ (i : Instr) (s : State), ∃ t : State, exec i s = .next t ∧ t.busy = false ∧
    ((∃ code : BitVec 4, 2 ≤ code.toNat ∧ code.toNat ≤ 6 ∧ t = s.failed code) ∨
      t = { s with
            x := t.x, rng := t.rng, z := t.z, mrRounds := t.mrRounds,
            done := true, intrDone := true, busy := false })

/-- R20, R41: a command writes no operand register but the destinations its rule names, and only SEED, UNSEED
and MRTEST change the random context. -/
def Obligations.CommandsWriteOnlyTheirDestinations : Prop :=
  ∀ (i : Instr) (s t : State), exec i s = .next t →
    (∀ r : Reg, r ∉ destinations i → t.reg r = s.reg r) ∧
    (usesRandomContext i = false → t.rng = s.rng)

/-- A success that writes one register holds the value there, and the other registers are as before. -/
def Obligations.AWrittenRegisterHoldsItsValue : Prop :=
  ∀ (s : State) (rd r : Reg) (v : Nat),
    (s.written rd v).reg r = if r = rd then v else s.reg r

/-- R21: every value a command writes is below `2^WBITS`. -/
def Obligations.CommandResultsFitTheRegisters : Prop :=
  ∀ (i : Instr) (s t : State), i.WellFormed → (∀ r : Reg, s.reg r < 2 ^ s.params.wbits) →
    exec i s = .next t → ∀ r : Reg, t.reg r < 2 ^ t.params.wbits

/-- R30: a completion sets exactly one of DONE and ERR. -/
def Obligations.CompletionSetsExactlyOneOfDoneAndErr : Prop :=
  ∀ (s t : State) (rest : List Event), s.Inv → s.busy = true → EngineNext s rest → step s = .next t →
    t.busy = false ∧ t.done = !t.err

/-! ## Invariants of every step -/

/-- Every step keeps a consistent state consistent. -/
def Obligations.EveryStepKeepsTheInvariant : Prop :=
  ∀ s t : State, s.Inv → step s = .next t → t.Inv

/-- The state after reset is consistent, in every configuration. -/
def Obligations.ResetStatesAreConsistent : Prop :=
  ∀ p : Config.Params, (State.resetWith p).Inv

/-- No step changes the configuration (assumption 1: the model keeps it in the state). -/
def Obligations.NoStepChangesTheConfiguration : Prop :=
  ∀ s t : State, step s = .next t → t.params = s.params

/-- R29: BUSY is set only by an acceptance, and cleared only by a completion or a hard reset. -/
def Obligations.BusyIsSetByAcceptanceAndClearedByCompletion : Prop :=
  ∀ s t : State, step s = .next t →
    (s.busy = false → t.busy = true → ∃ w rest, s.schedule = .hostWrite 32 0x00C w :: rest) ∧
    (s.busy = true → t.busy = false →
      (∃ rest, EngineNext s rest) ∨ ∃ rest, s.schedule = .hardReset :: rest)

/-- R37: LASTCMD holds the word of the most recent acceptance, and 0 after a reset. -/
def Obligations.LastcmdHoldsTheLatestAcceptance : Prop :=
  ∀ s t : State, step s = .next t →
    (ResetNext s → t.lastCmd = 0) ∧
    (∀ w rest, s.busy = false → s.schedule = .hostWrite 32 0x00C w :: rest → t.lastCmd = w) ∧
    (¬ResetNext s → (∀ w rest, s.schedule = .hostWrite 32 0x00C w :: rest → s.busy = true) →
      t.lastCmd = s.lastCmd)

/-- R41: only SEED, UNSEED, MRTEST and a reset change the random context. -/
def Obligations.RandomContextChangesOnlyByItsCommands : Prop :=
  ∀ s t : State, step s = .next t → t.rng ≠ s.rng →
    (ResetNext s ∧ t.rng = none) ∨
    (s.busy = true ∧ (∃ rest, EngineNext s rest) ∧
      ∃ i, decode s.lastCmd = .ok i ∧ usesRandomContext i = true)

/-- R46: while a command is in flight no host access changes an operand register, the random context or the
command. -/
def Obligations.NoHostAccessDisturbsTheCommandInFlight : Prop :=
  ∀ (s t : State) (e : Event) (rest : List Event), s.busy = true → s.schedule = e :: rest → e.IsHost →
    step s = .next t →
    t.x = s.x ∧ t.rng = s.rng ∧ t.lastCmd = s.lastCmd ∧ t.busy = true

/-! ## Reset -/

/-- R48: the machine right after reset. -/
def Obligations.ResetLeavesEverythingZero : Prop :=
  (∀ i : Reg, State.reset.reg i = 0) ∧ State.reset.readCsr .id = 0x4D455850 ∧
  State.reset.readCsr .hwcfg = 0x00180002 ∧ State.reset.readCsr .ctrl = 0 ∧ State.reset.readCsr .cmd = 0 ∧
  State.reset.readCsr .status = 0 ∧ State.reset.readCsr .intrState = 0 ∧
  State.reset.readCsr .intrEnable = 0 ∧ State.reset.readCsr .hosterr = 0 ∧
  State.reset.readCsr .lastcmd = 0 ∧ State.reset.readCsr .mrRounds = 0 ∧
  State.reset.rng = none ∧ State.reset.busy = false ∧ State.reset.irq = false

/-- R124: a hard reset puts every piece of state to its reset value at any time, and a command in flight is
discarded. The configuration, the schedule and the replies stay (assumptions 1 to 3). -/
def Obligations.HardResetClearsEverything : Prop :=
  ∀ (s : State) (rest : List Event), s.schedule = .hardReset :: rest →
    ∃ t : State, step s = .next t ∧ (∀ i : Reg, t.reg i = 0) ∧ t.statusWord = 0 ∧
      t.intrStateWord = 0 ∧ t.intrEnableWord = 0 ∧ t.hosterrWord = 0 ∧ t.lastCmd = 0 ∧
      t.mrRounds = 0 ∧ t.rng = none ∧ t.busy = false ∧ t.irq = false ∧
      t.params = s.params ∧ t.schedule = rest ∧ t.replies = s.replies

/-- R125, R26: a CTRL write with bit 0 set is a hard reset while idle, and is refused while busy; with bit 0
clear it has no effect. -/
def Obligations.SoftResetIsGrantedOnlyWhileIdle : Prop :=
  ∀ (s : State) (w : Word) (rest : List Event), s.schedule = .hostWrite 32 0x008 w :: rest →
    (w.getLsbD 0 = true → s.busy = false →
      ∃ t : State, step { s with schedule := .hardReset :: rest } = .next t ∧
        step s = .next { t with replies := .written :: t.replies }) ∧
    (w.getLsbD 0 = true → s.busy = true → step s = .next
      { s with overrun := true, schedule := rest, replies := .written :: s.replies }) ∧
    (w.getLsbD 0 = false → step s = .next
      { s with schedule := rest, replies := .written :: s.replies })

/-! ## The host bus -/

/-- R44: acceptance. While busy the word is dropped and OVERRUN set; while idle it becomes LASTCMD, the report of
the last command is cleared and BUSY is set. -/
def Obligations.AcceptanceStartsTheCommandOrNotesTheOverrun : Prop :=
  ∀ (s : State) (w : Word) (rest : List Event), s.schedule = .hostWrite 32 0x00C w :: rest →
    (s.busy = true → step s = .next
      { s with overrun := true, schedule := rest, replies := .written :: s.replies }) ∧
    (s.busy = false → step s = .next
      { s with
        lastCmd := w, done := false, err := false, errcode := 0, z := false, mrRounds := 0,
        busy := true, schedule := rest, replies := .written :: s.replies })

/-- R109, R50, R54, R55: a host access gets a bus error exactly when it is not 32 bits wide, not aligned or not
mapped. The model stops there (assumption 5). -/
def Obligations.BusErrorsAreExactlyTheIllegalAccesses : Prop :=
  ∀ (s : State) (width : Nat) (off : Offset) (v : Word) (rest : List Event),
    (s.schedule = .hostRead width off :: rest ∨ s.schedule = .hostWrite width off v :: rest) →
    (LegalAccess s.params width off → ∃ t, step s = .next t) ∧
    (¬LegalAccess s.params width off → step s = .fault (.busError off))

/-- R23 to R27, R28, R34 to R38: what a read of each CSR returns; it changes nothing else. -/
def Obligations.CsrReadsReturnTheirRegisters : Prop :=
  ∀ (s : State) (rest : List Event) (off : Offset), s.schedule = .hostRead 32 off :: rest →
    (∀ v : Word,
      (off = 0x000 ∧ v = 0x4D455850) ∨
      (off = 0x004 ∧ v = BitVec.ofNat 32 (s.params.words + 8 * 2 ^ 16 + 1 * 2 ^ 20)) ∨
      (off = 0x008 ∧ v = 0) ∨ (off = 0x00C ∧ v = 0) ∨ (off = 0x010 ∧ v = s.statusWord) ∨
      (off = 0x014 ∧ v = s.intrStateWord) ∨ (off = 0x018 ∧ v = s.intrEnableWord) ∨
      (off = 0x01C ∧ v = s.hosterrWord) ∨ (off = 0x020 ∧ v = s.lastCmd) ∨
      (off = 0x024 ∧ v = s.mrRounds) →
      step s = .next { s with schedule := rest, replies := .data v :: s.replies })

/-- R28, R32: the bits of STATUS. -/
def Obligations.StatusWordHasItsBits : Prop :=
  ∀ s : State,
    s.statusWord.getLsbD 0 = s.busy ∧ s.statusWord.getLsbD 1 = s.done ∧
    s.statusWord.getLsbD 2 = s.err ∧ s.statusWord.getLsbD 3 = s.z ∧
    s.statusWord.getLsbD 4 = s.rng.isSome ∧
    (∀ k, 5 ≤ k → k ≤ 7 → s.statusWord.getLsbD k = false) ∧
    (∀ k, k < 4 → s.statusWord.getLsbD (8 + k) = s.errcode.getLsbD k) ∧
    ∀ k, 12 ≤ k → s.statusWord.getLsbD k = false

/-- R34, R35, R36, R39: the bits of INTR_STATE, INTR_ENABLE and HOSTERR. -/
def Obligations.InterruptAndHosterrWordsHaveTheirBits : Prop :=
  ∀ s : State,
    s.intrStateWord.getLsbD 0 = s.intrDone ∧ s.intrStateWord.getLsbD 1 = s.intrErr ∧
    s.intrEnableWord.getLsbD 0 = s.doneEn ∧ s.intrEnableWord.getLsbD 1 = s.errEn ∧
    s.hosterrWord.getLsbD 0 = s.overrun ∧ s.hosterrWord.getLsbD 1 = s.busyAcc ∧
    ∀ k, 2 ≤ k → s.intrStateWord.getLsbD k = false ∧ s.intrEnableWord.getLsbD k = false ∧
      s.hosterrWord.getLsbD k = false

/-- R57: a host read changes nothing but what the host has got back, and BUSYACC for a window read while busy. -/
def Obligations.HostReadsHaveNoOtherSideEffect : Prop :=
  ∀ (s t : State) (width : Nat) (off : Offset) (rest : List Event),
    s.schedule = .hostRead width off :: rest → step s = .next t →
    (∃ v, t = { s with schedule := rest, replies := .data v :: s.replies, busyAcc := t.busyAcc }) ∧
    (t.busyAcc = (s.busyAcc || (s.busy && decide (0x1000 ≤ off.toNat))))

/-- R40: a write to a read-only CSR is accepted and changes no state. -/
def Obligations.ReadOnlyCsrsIgnoreWrites : Prop :=
  ∀ (s : State) (w : Word) (off : Offset) (rest : List Event),
    (off = 0x000 ∨ off = 0x004 ∨ off = 0x010 ∨ off = 0x020 ∨ off = 0x024) →
    s.schedule = .hostWrite 32 off w :: rest →
    step s = .next { s with schedule := rest, replies := .written :: s.replies }

/-- R35: INTR_ENABLE stores its two bits and reads back what was written; bits 31 to 2 are RAZ/WI. -/
def Obligations.IntrEnableReadsBackWhatWasWritten : Prop :=
  ∀ (s : State) (w : Word) (rest : List Event), s.schedule = .hostWrite 32 0x018 w :: rest →
    ∃ t : State, step s = .next t ∧ t.intrEnableWord = w &&& 3 ∧
      t = { s with
            doneEn := t.doneEn, errEn := t.errEn, schedule := rest,
            replies := .written :: s.replies }

/-- R34, R36: writing 1 to a bit of INTR_STATE or HOSTERR clears it, and writing 0 leaves it. -/
def Obligations.WritingOneClearsAStickyBit : Prop :=
  ∀ (s : State) (w : Word) (rest : List Event),
    (s.schedule = .hostWrite 32 0x014 w :: rest →
      ∃ t : State, step s = .next t ∧ t.intrStateWord = s.intrStateWord &&& ~~~w ∧
        t = { s with
              intrDone := t.intrDone, intrErr := t.intrErr, schedule := rest,
              replies := .written :: s.replies }) ∧
    (s.schedule = .hostWrite 32 0x01C w :: rest →
      ∃ t : State, step s = .next t ∧ t.hosterrWord = s.hosterrWord &&& ~~~w ∧
        t = { s with
              overrun := t.overrun, busyAcc := t.busyAcc, schedule := rest,
              replies := .written :: s.replies })

/-- R34, R112: a pending bit is set only by its kind of completion, and cleared only by a host write of 1 or a
reset. -/
def Obligations.PendingBitsAreSetByCompletionsOnly : Prop :=
  ∀ s t : State, step s = .next t →
    (s.intrDone = false → t.intrDone = true →
      s.busy = true ∧ (∃ rest, EngineNext s rest) ∧ t.done = true) ∧
    (s.intrErr = false → t.intrErr = true →
      s.busy = true ∧ (∃ rest, EngineNext s rest) ∧ t.err = true) ∧
    (s.intrDone = true → t.intrDone = false →
      ResetNext s ∨ ∃ w rest, w.getLsbD 0 = true ∧ s.schedule = .hostWrite 32 0x014 w :: rest) ∧
    (s.intrErr = true → t.intrErr = false →
      ResetNext s ∨ ∃ w rest, w.getLsbD 1 = true ∧ s.schedule = .hostWrite 32 0x014 w :: rest)

/-- R112: in every state `irq` is 1 exactly when a pending bit meets its enable, and it rises only in the step of
a completion or of a write of INTR_ENABLE. -/
def Obligations.IrqRisesOnlyByCompletionOrEnable : Prop :=
  (∀ s : State, s.irq = true ↔ s.intrStateWord &&& s.intrEnableWord ≠ 0) ∧
  ∀ s t : State, step s = .next t → s.irq = false → t.irq = true →
    (s.busy = true ∧ ∃ rest, EngineNext s rest) ∨
    ∃ w rest, s.schedule = .hostWrite 32 0x018 w :: rest

/-- R36: OVERRUN and BUSYACC are set by the accesses that are dropped while busy and by nothing else, and cleared by
a host write of 1 or a reset and by nothing else. -/
def Obligations.HosterrRecordsDroppedAccesses : Prop :=
  ∀ s t : State, step s = .next t →
    (DroppedRequest s → t.overrun = true) ∧
    (s.overrun = false → t.overrun = true → DroppedRequest s) ∧
    (DroppedWindowAccess s → t.busyAcc = true) ∧
    (s.busyAcc = false → t.busyAcc = true → DroppedWindowAccess s) ∧
    (s.overrun = true → (t.overrun = false ↔
      ResetNext s ∨ ∃ w rest, w.getLsbD 0 = true ∧ s.schedule = .hostWrite 32 0x01C w :: rest)) ∧
    (s.busyAcc = true → (t.busyAcc = false ↔
      ResetNext s ∨ ∃ w rest, w.getLsbD 1 = true ∧ s.schedule = .hostWrite 32 0x01C w :: rest))

/-- R51, R53: while idle, the word at `OPB(i) + 4j` is bits `[WBITS-1-32j : WBITS-32-32j]` of `x[i]`, for reading
and for writing; a write keeps every other bit of the register and every other register. -/
def Obligations.WindowWordsAreBigEndianSlices : Prop :=
  ∀ (s : State) (i : Reg) (j : Nat) (w : Word) (rest : List Event), s.busy = false →
    j < s.params.words →
    (s.schedule = .hostRead 32 (BitVec.ofNat 14 (0x1000 + i.val * (s.params.wbits / 8) + 4 * j)) :: rest →
      step s = .next
        { s with
          schedule := rest
          replies :=
            .data (BitVec.ofNat 32 (s.reg i / 2 ^ (s.params.wbits - 32 - 32 * j))) :: s.replies }) ∧
    (s.schedule = .hostWrite 32 (BitVec.ofNat 14 (0x1000 + i.val * (s.params.wbits / 8) + 4 * j)) w :: rest →
      ∃ t : State, step s = .next t ∧
        t = { s with x := t.x, schedule := rest, replies := .written :: s.replies } ∧
        (∀ l : Reg, l ≠ i → t.reg l = s.reg l) ∧
        ∀ b : Nat, (t.reg i).testBit b =
          if s.params.wbits - 32 - 32 * j ≤ b ∧ b < s.params.wbits - 32 * j then
            w.getLsbD (b - (s.params.wbits - 32 - 32 * j))
          else (s.reg i).testBit b)

/-- R52: while busy, a window read returns 0 and a window write is dropped; each sets BUSYACC and neither is a bus
error. -/
def Obligations.WindowAccessesWhileBusyAreDropped : Prop :=
  ∀ (s : State) (off : Offset) (w : Word) (rest : List Event), s.busy = true →
    InWindow s.params off → off.toNat % 4 = 0 →
    (s.schedule = .hostRead 32 off :: rest → step s = .next
      { s with busyAcc := true, schedule := rest, replies := .data 0 :: s.replies }) ∧
    (s.schedule = .hostWrite 32 off w :: rest → step s = .next
      { s with busyAcc := true, schedule := rest, replies := .written :: s.replies })

/-- R12, R49: the platform address `MEXP_BASE + off` names the offset `off`, and an address outside the 16 KiB region
names none. -/
def Obligations.PlatformAddressesNameOffsets : Prop :=
  (∀ off : Offset, offsetOfAddress (Config.mexpBase + off.toNat) = some off) ∧
  ∀ addr : Nat, (addr < Config.mexpBase ∨ Config.mexpBase + 0x4000 ≤ addr) → offsetOfAddress addr = none

/-! ## The assembler -/

/-- R74: each pseudo-command is a spelling of exactly one real command. -/
def Obligations.PseudoCommandsAreSpellings : Prop :=
  ∀ (rd ra rb rm : Reg) (k : Nat), k ≤ 16383 →
    decode (encode (Pseudo.clr rd).expand) = .ok (.ldi rd 0) ∧
    decode (encode (Pseudo.isprime rd ra k).expand) = .ok (.mrtest rd ra k) ∧
    decode (encode (Pseudo.encrypt rd ra rm).expand) = .ok (.powmod rd ra rm rm) ∧
    decode (encode (Pseudo.decrypt rd ra rb rm).expand) = .ok (.powmod rd ra rb rm)
end

