-- ==== Sys2Proof/Laws/Arith.lean ====
section
/-! SUPPORT. What the arithmetic of the command rules computes, one lemma a function: the power, the batch of squarings,
the decomposition, a draw, and the rounds of the primality test. -/

namespace Sys2Proof.Machine

open Sys2Proof

/-! ## Powers -/

/-- The loop of POWMOD computes the power when it has enough turns. -/
theorem powLoop_eq (m : Nat) {fuel e : Nat} (b r : Nat) (he : e < 2 ^ fuel) :
    powLoop m fuel b e (r % m) = r * b ^ e % m := by
  induction fuel generalizing b e r with
  | zero =>
    obtain rfl : e = 0 := by simpa using he
    simp [powLoop]
  | succ f ih =>
    have half : e / 2 < 2 ^ f := by rw [pow_succ] at he; omega
    have square (r k : Nat) : r * (b * b % m) ^ k % m = r * b ^ (2 * k) % m := by
      rw [Nat.mul_mod, ← Nat.pow_mod, ← Nat.mul_mod, pow_mul, sq]
    rw [powLoop]
    split
    · next h => simp [h]
    split
    · next h =>
      have odd : e = 2 * (e / 2) + 1 := by omega
      have step : r % m * b % m = r * b % m := by simp [Nat.mul_mod]
      rw [step, ih _ _ half, square]
      conv_rhs => rw [odd, pow_succ', ← mul_assoc]
    · next h =>
      have even : 2 * (e / 2) = e := by omega
      rw [ih _ _ half, square, even]

theorem lt_two_pow_bitLength (e : Nat) : e < 2 ^ bitLength e := by
  unfold bitLength
  split
  · next h => simp [h]
  · exact Nat.lt_log2_self

/-- `powMod(a, e, m)` is `a^e mod m` (41_modular_arithmetic.md R89, R90). -/
theorem powMod_eq (a e m : Nat) : powMod a e m = a ^ e % m := by
  rw [powMod, powLoop_eq m _ _ (lt_two_pow_bitLength e), one_mul, ← Nat.pow_mod]

/-- `k` squarings raise to the power `2^k` (R88). -/
theorem squareTimes_eq (m k v : Nat) : squareTimes m k (v % m) = v ^ 2 ^ k % m := by
  induction k generalizing v with
  | zero => simp [squareTimes]
  | succ k ih => rw [squareTimes, ← Nat.mul_mod, ih, ← sq, ← pow_mul, pow_succ']

/-! ## Decomposition -/

/-- With enough turns every factor of 2 is taken out and counted (42_primality.md R92). -/
theorem stripTwos_spec {fuel d : Nat} (s : Nat) (pos : 0 < d) (hd : d < 2 ^ fuel) :
    ∃ k r, stripTwos fuel s d = (s + k, r) ∧ d = 2 ^ k * r ∧ r % 2 = 1 := by
  induction fuel generalizing s d with
  | zero => simp at hd; omega
  | succ f ih =>
    rw [stripTwos]
    split
    · obtain ⟨k, r, h, hr, odd⟩ := ih (s + 1) (d := d / 2) (by omega) (by rw [pow_succ] at hd; omega)
      refine ⟨k + 1, r, by rw [h, Nat.add_right_comm, Nat.add_assoc], ?_, odd⟩
      rw [pow_succ', mul_assoc, ← hr]; omega
    · exact ⟨0, d, rfl, by simp, by omega⟩

/-! ## Draws -/

/-- The base of a draw for an odd candidate of 5 or more (43_random_context.md R100). -/
theorem rngDraw_base (p : Config.Params) (st : Config.RngState) {n : Nat} (odd : n % 2 = 1) (five : 5 ≤ n) :
    (Config.rngDraw p st n).1 = 2 + Config.rngRaw p st n % (n - 3) := if_pos ⟨odd, five⟩

/-- Chaining: a draw and then `j` draws are `j + 1` draws (R99). -/
theorem stateAfter_draw (p : Config.Params) (st : Config.RngState) (n j : Nat) :
    stateAfter p (Config.rngDraw p st n).2 n j = stateAfter p st n (j + 1) := by
  induction j with
  | zero => rfl
  | succ j ih => rw [stateAfter, ih]; rfl

/-- The bases after a first draw are the later bases of the sequence (R99). -/
theorem baseAt_draw (p : Config.Params) (st : Config.RngState) (n j : Nat) :
    baseAt p (Config.rngDraw p st n).2 n j = baseAt p st n (j + 1) := by
  rw [baseAt, stateAfter_draw]; rfl

/-! ## Rounds -/

section
variable {p : Config.Params} {n k j : Nat} (rounds : Nat) {st : Config.RngState}

/-- When every base passes, `k` draws are made (R97). -/
theorem mrRoundsLoop_of_pass (h : ∀ l < k, trial n (baseAt p st n l) = true) :
    mrRoundsLoop p n k rounds st = (true, rounds + k, stateAfter p st n k) := by
  induction k generalizing rounds st with
  | zero => rfl
  | succ k ih =>
    have first : trial n (Config.rngDraw p st n).1 = true := h 0 (by omega)
    have later : ∀ l < k, trial n (baseAt p (Config.rngDraw p st n).2 n l) = true := by
      intro l hl; rw [baseAt_draw]; exact h (l + 1) (by omega)
    rw [mrRoundsLoop, if_pos first, ih _ later, stateAfter_draw, Nat.add_right_comm, Nat.add_assoc]

/-- When base `j` is the first to fail, `j + 1` draws are made (R97). -/
theorem mrRoundsLoop_of_fail (hj : j < k) (pass : ∀ l < j, trial n (baseAt p st n l) = true)
    (fail : trial n (baseAt p st n j) = false) :
    mrRoundsLoop p n k rounds st = (false, rounds + (j + 1), stateAfter p st n (j + 1)) := by
  induction k generalizing rounds st j with
  | zero => omega
  | succ k ih =>
    rw [mrRoundsLoop]
    cases j with
    | zero =>
      have first : trial n (Config.rngDraw p st n).1 = false := fail
      simp [first]; rfl
    | succ j =>
      have first : trial n (Config.rngDraw p st n).1 = true := pass 0 (by omega)
      have later : ∀ l < j, trial n (baseAt p (Config.rngDraw p st n).2 n l) = true := by
        intro l hl; rw [baseAt_draw]; exact pass (l + 1) (by omega)
      rw [if_pos first, ih _ (by omega) later (by rw [baseAt_draw]; exact fail), stateAfter_draw,
        Nat.add_right_comm rounds 1, Nat.add_assoc]

/-- Past the short-circuits `isPrime` is its rounds (R97). -/
theorem isPrime_of_odd (odd : n % 2 = 1) (five : 5 ≤ n) : isPrime p n k st = mrRoundsLoop p n k 0 st := by
  unfold isPrime
  rw [if_neg (by omega), if_neg (by omega), if_neg (by omega), if_neg (by omega), if_neg (by omega)]

end

end Sys2Proof.Machine
end

