-- ==== Sys2Proof/Laws/State.lean ====
section
/-! SUPPORT. What each update of the state leaves in each field: one lemma a field and update, so that no later proof
unfolds a record update. -/

namespace Sys2Proof.Machine

open Sys2Proof

variable (s : State)

@[simp] theorem State.setReg_params (i : Reg) (v : Nat) : (s.setReg i v).params = s.params := rfl
@[simp] theorem State.setReg_x (i : Reg) (v : Nat) : (s.setReg i v).x = writeReg s.x i v := rfl
@[simp] theorem State.setReg_busy (i : Reg) (v : Nat) : (s.setReg i v).busy = s.busy := rfl
@[simp] theorem State.setReg_done (i : Reg) (v : Nat) : (s.setReg i v).done = s.done := rfl
@[simp] theorem State.setReg_err (i : Reg) (v : Nat) : (s.setReg i v).err = s.err := rfl
@[simp] theorem State.setReg_z (i : Reg) (v : Nat) : (s.setReg i v).z = s.z := rfl
@[simp] theorem State.setReg_errcode (i : Reg) (v : Nat) : (s.setReg i v).errcode = s.errcode := rfl
@[simp] theorem State.setReg_intrDone (i : Reg) (v : Nat) : (s.setReg i v).intrDone = s.intrDone := rfl
@[simp] theorem State.setReg_intrErr (i : Reg) (v : Nat) : (s.setReg i v).intrErr = s.intrErr := rfl
@[simp] theorem State.setReg_doneEn (i : Reg) (v : Nat) : (s.setReg i v).doneEn = s.doneEn := rfl
@[simp] theorem State.setReg_errEn (i : Reg) (v : Nat) : (s.setReg i v).errEn = s.errEn := rfl
@[simp] theorem State.setReg_overrun (i : Reg) (v : Nat) : (s.setReg i v).overrun = s.overrun := rfl
@[simp] theorem State.setReg_busyAcc (i : Reg) (v : Nat) : (s.setReg i v).busyAcc = s.busyAcc := rfl
@[simp] theorem State.setReg_lastCmd (i : Reg) (v : Nat) : (s.setReg i v).lastCmd = s.lastCmd := rfl
@[simp] theorem State.setReg_mrRounds (i : Reg) (v : Nat) : (s.setReg i v).mrRounds = s.mrRounds := rfl
@[simp] theorem State.setReg_rng (i : Reg) (v : Nat) : (s.setReg i v).rng = s.rng := rfl
@[simp] theorem State.setReg_schedule (i : Reg) (v : Nat) : (s.setReg i v).schedule = s.schedule := rfl
@[simp] theorem State.setReg_replies (i : Reg) (v : Nat) : (s.setReg i v).replies = s.replies := rfl

@[simp] theorem State.raiseCmdError_params (e : CmdError) : (s.raiseCmdError e).params = s.params := rfl
@[simp] theorem State.raiseCmdError_x (e : CmdError) : (s.raiseCmdError e).x = s.x := rfl
@[simp] theorem State.raiseCmdError_busy (e : CmdError) : (s.raiseCmdError e).busy = false := rfl
@[simp] theorem State.raiseCmdError_done (e : CmdError) : (s.raiseCmdError e).done = s.done := rfl
@[simp] theorem State.raiseCmdError_err (e : CmdError) : (s.raiseCmdError e).err = true := rfl
@[simp] theorem State.raiseCmdError_z (e : CmdError) : (s.raiseCmdError e).z = s.z := rfl
@[simp] theorem State.raiseCmdError_errcode (e : CmdError) : (s.raiseCmdError e).errcode = e.code := rfl
@[simp] theorem State.raiseCmdError_intrDone (e : CmdError) : (s.raiseCmdError e).intrDone = s.intrDone := rfl
@[simp] theorem State.raiseCmdError_intrErr (e : CmdError) : (s.raiseCmdError e).intrErr = true := rfl
@[simp] theorem State.raiseCmdError_doneEn (e : CmdError) : (s.raiseCmdError e).doneEn = s.doneEn := rfl
@[simp] theorem State.raiseCmdError_errEn (e : CmdError) : (s.raiseCmdError e).errEn = s.errEn := rfl
@[simp] theorem State.raiseCmdError_overrun (e : CmdError) : (s.raiseCmdError e).overrun = s.overrun := rfl
@[simp] theorem State.raiseCmdError_busyAcc (e : CmdError) : (s.raiseCmdError e).busyAcc = s.busyAcc := rfl
@[simp] theorem State.raiseCmdError_lastCmd (e : CmdError) : (s.raiseCmdError e).lastCmd = s.lastCmd := rfl
@[simp] theorem State.raiseCmdError_mrRounds (e : CmdError) : (s.raiseCmdError e).mrRounds = s.mrRounds := rfl
@[simp] theorem State.raiseCmdError_rng (e : CmdError) : (s.raiseCmdError e).rng = s.rng := rfl
@[simp] theorem State.raiseCmdError_schedule (e : CmdError) : (s.raiseCmdError e).schedule = s.schedule := rfl
@[simp] theorem State.raiseCmdError_replies (e : CmdError) : (s.raiseCmdError e).replies = s.replies := rfl

@[simp] theorem State.succeed_params (ws : List (Reg × Nat)) (v : Option Nat) (n : Nat) (g : Option Config.RngState) :
    (s.succeed ws v n g).params = s.params := rfl
@[simp] theorem State.succeed_x (ws : List (Reg × Nat)) (v : Option Nat) (n : Nat) (g : Option Config.RngState) :
    (s.succeed ws v n g).x = applyWrites s.x ws := rfl
@[simp] theorem State.succeed_busy (ws : List (Reg × Nat)) (v : Option Nat) (n : Nat) (g : Option Config.RngState) :
    (s.succeed ws v n g).busy = false := rfl
@[simp] theorem State.succeed_done (ws : List (Reg × Nat)) (v : Option Nat) (n : Nat) (g : Option Config.RngState) :
    (s.succeed ws v n g).done = true := rfl
@[simp] theorem State.succeed_err (ws : List (Reg × Nat)) (v : Option Nat) (n : Nat) (g : Option Config.RngState) :
    (s.succeed ws v n g).err = s.err := rfl
@[simp] theorem State.succeed_z (ws : List (Reg × Nat)) (v : Option Nat) (n : Nat) (g : Option Config.RngState) :
    (s.succeed ws v n g).z = zeroFlag v := rfl
@[simp] theorem State.succeed_errcode (ws : List (Reg × Nat)) (v : Option Nat) (n : Nat) (g : Option Config.RngState) :
    (s.succeed ws v n g).errcode = s.errcode := rfl
@[simp] theorem State.succeed_intrDone (ws : List (Reg × Nat)) (v : Option Nat) (n : Nat) (g : Option Config.RngState) :
    (s.succeed ws v n g).intrDone = true := rfl
@[simp] theorem State.succeed_intrErr (ws : List (Reg × Nat)) (v : Option Nat) (n : Nat) (g : Option Config.RngState) :
    (s.succeed ws v n g).intrErr = s.intrErr := rfl
@[simp] theorem State.succeed_doneEn (ws : List (Reg × Nat)) (v : Option Nat) (n : Nat) (g : Option Config.RngState) :
    (s.succeed ws v n g).doneEn = s.doneEn := rfl
@[simp] theorem State.succeed_errEn (ws : List (Reg × Nat)) (v : Option Nat) (n : Nat) (g : Option Config.RngState) :
    (s.succeed ws v n g).errEn = s.errEn := rfl
@[simp] theorem State.succeed_overrun (ws : List (Reg × Nat)) (v : Option Nat) (n : Nat) (g : Option Config.RngState) :
    (s.succeed ws v n g).overrun = s.overrun := rfl
@[simp] theorem State.succeed_busyAcc (ws : List (Reg × Nat)) (v : Option Nat) (n : Nat) (g : Option Config.RngState) :
    (s.succeed ws v n g).busyAcc = s.busyAcc := rfl
@[simp] theorem State.succeed_lastCmd (ws : List (Reg × Nat)) (v : Option Nat) (n : Nat) (g : Option Config.RngState) :
    (s.succeed ws v n g).lastCmd = s.lastCmd := rfl
@[simp] theorem State.succeed_mrRounds (ws : List (Reg × Nat)) (v : Option Nat) (n : Nat) (g : Option Config.RngState) :
    (s.succeed ws v n g).mrRounds = BitVec.ofNat 32 n := rfl
@[simp] theorem State.succeed_rng (ws : List (Reg × Nat)) (v : Option Nat) (n : Nat) (g : Option Config.RngState) :
    (s.succeed ws v n g).rng = g := rfl
@[simp] theorem State.succeed_schedule (ws : List (Reg × Nat)) (v : Option Nat) (n : Nat) (g : Option Config.RngState) :
    (s.succeed ws v n g).schedule = s.schedule := rfl
@[simp] theorem State.succeed_replies (ws : List (Reg × Nat)) (v : Option Nat) (n : Nat) (g : Option Config.RngState) :
    (s.succeed ws v n g).replies = s.replies := rfl

@[simp] theorem State.accept_params (w : Word) : (s.accept w).params = s.params := rfl
@[simp] theorem State.accept_x (w : Word) : (s.accept w).x = s.x := rfl
@[simp] theorem State.accept_busy (w : Word) : (s.accept w).busy = true := rfl
@[simp] theorem State.accept_done (w : Word) : (s.accept w).done = false := rfl
@[simp] theorem State.accept_err (w : Word) : (s.accept w).err = false := rfl
@[simp] theorem State.accept_z (w : Word) : (s.accept w).z = false := rfl
@[simp] theorem State.accept_errcode (w : Word) : (s.accept w).errcode = 0 := rfl
@[simp] theorem State.accept_intrDone (w : Word) : (s.accept w).intrDone = s.intrDone := rfl
@[simp] theorem State.accept_intrErr (w : Word) : (s.accept w).intrErr = s.intrErr := rfl
@[simp] theorem State.accept_doneEn (w : Word) : (s.accept w).doneEn = s.doneEn := rfl
@[simp] theorem State.accept_errEn (w : Word) : (s.accept w).errEn = s.errEn := rfl
@[simp] theorem State.accept_overrun (w : Word) : (s.accept w).overrun = s.overrun := rfl
@[simp] theorem State.accept_busyAcc (w : Word) : (s.accept w).busyAcc = s.busyAcc := rfl
@[simp] theorem State.accept_lastCmd (w : Word) : (s.accept w).lastCmd = w := rfl
@[simp] theorem State.accept_mrRounds (w : Word) : (s.accept w).mrRounds = 0 := rfl
@[simp] theorem State.accept_rng (w : Word) : (s.accept w).rng = s.rng := rfl
@[simp] theorem State.accept_schedule (w : Word) : (s.accept w).schedule = s.schedule := rfl
@[simp] theorem State.accept_replies (w : Word) : (s.accept w).replies = s.replies := rfl

@[simp] theorem State.hardReset_params : (s.hardReset).params = s.params := rfl
@[simp] theorem State.hardReset_x : (s.hardReset).x = Vector.replicate 8 0 := rfl
@[simp] theorem State.hardReset_busy : (s.hardReset).busy = false := rfl
@[simp] theorem State.hardReset_done : (s.hardReset).done = false := rfl
@[simp] theorem State.hardReset_err : (s.hardReset).err = false := rfl
@[simp] theorem State.hardReset_z : (s.hardReset).z = false := rfl
@[simp] theorem State.hardReset_errcode : (s.hardReset).errcode = 0 := rfl
@[simp] theorem State.hardReset_intrDone : (s.hardReset).intrDone = false := rfl
@[simp] theorem State.hardReset_intrErr : (s.hardReset).intrErr = false := rfl
@[simp] theorem State.hardReset_doneEn : (s.hardReset).doneEn = false := rfl
@[simp] theorem State.hardReset_errEn : (s.hardReset).errEn = false := rfl
@[simp] theorem State.hardReset_overrun : (s.hardReset).overrun = false := rfl
@[simp] theorem State.hardReset_busyAcc : (s.hardReset).busyAcc = false := rfl
@[simp] theorem State.hardReset_lastCmd : (s.hardReset).lastCmd = 0 := rfl
@[simp] theorem State.hardReset_mrRounds : (s.hardReset).mrRounds = 0 := rfl
@[simp] theorem State.hardReset_rng : (s.hardReset).rng = none := rfl
@[simp] theorem State.hardReset_schedule : (s.hardReset).schedule = s.schedule := rfl
@[simp] theorem State.hardReset_replies : (s.hardReset).replies = s.replies := rfl

@[simp] theorem State.noteOverrun_params : (s.noteOverrun).params = s.params := rfl
@[simp] theorem State.noteOverrun_x : (s.noteOverrun).x = s.x := rfl
@[simp] theorem State.noteOverrun_busy : (s.noteOverrun).busy = s.busy := rfl
@[simp] theorem State.noteOverrun_done : (s.noteOverrun).done = s.done := rfl
@[simp] theorem State.noteOverrun_err : (s.noteOverrun).err = s.err := rfl
@[simp] theorem State.noteOverrun_z : (s.noteOverrun).z = s.z := rfl
@[simp] theorem State.noteOverrun_errcode : (s.noteOverrun).errcode = s.errcode := rfl
@[simp] theorem State.noteOverrun_intrDone : (s.noteOverrun).intrDone = s.intrDone := rfl
@[simp] theorem State.noteOverrun_intrErr : (s.noteOverrun).intrErr = s.intrErr := rfl
@[simp] theorem State.noteOverrun_doneEn : (s.noteOverrun).doneEn = s.doneEn := rfl
@[simp] theorem State.noteOverrun_errEn : (s.noteOverrun).errEn = s.errEn := rfl
@[simp] theorem State.noteOverrun_overrun : (s.noteOverrun).overrun = true := rfl
@[simp] theorem State.noteOverrun_busyAcc : (s.noteOverrun).busyAcc = s.busyAcc := rfl
@[simp] theorem State.noteOverrun_lastCmd : (s.noteOverrun).lastCmd = s.lastCmd := rfl
@[simp] theorem State.noteOverrun_mrRounds : (s.noteOverrun).mrRounds = s.mrRounds := rfl
@[simp] theorem State.noteOverrun_rng : (s.noteOverrun).rng = s.rng := rfl
@[simp] theorem State.noteOverrun_schedule : (s.noteOverrun).schedule = s.schedule := rfl
@[simp] theorem State.noteOverrun_replies : (s.noteOverrun).replies = s.replies := rfl

@[simp] theorem State.noteBusyAccess_params : (s.noteBusyAccess).params = s.params := rfl
@[simp] theorem State.noteBusyAccess_x : (s.noteBusyAccess).x = s.x := rfl
@[simp] theorem State.noteBusyAccess_busy : (s.noteBusyAccess).busy = s.busy := rfl
@[simp] theorem State.noteBusyAccess_done : (s.noteBusyAccess).done = s.done := rfl
@[simp] theorem State.noteBusyAccess_err : (s.noteBusyAccess).err = s.err := rfl
@[simp] theorem State.noteBusyAccess_z : (s.noteBusyAccess).z = s.z := rfl
@[simp] theorem State.noteBusyAccess_errcode : (s.noteBusyAccess).errcode = s.errcode := rfl
@[simp] theorem State.noteBusyAccess_intrDone : (s.noteBusyAccess).intrDone = s.intrDone := rfl
@[simp] theorem State.noteBusyAccess_intrErr : (s.noteBusyAccess).intrErr = s.intrErr := rfl
@[simp] theorem State.noteBusyAccess_doneEn : (s.noteBusyAccess).doneEn = s.doneEn := rfl
@[simp] theorem State.noteBusyAccess_errEn : (s.noteBusyAccess).errEn = s.errEn := rfl
@[simp] theorem State.noteBusyAccess_overrun : (s.noteBusyAccess).overrun = s.overrun := rfl
@[simp] theorem State.noteBusyAccess_busyAcc : (s.noteBusyAccess).busyAcc = true := rfl
@[simp] theorem State.noteBusyAccess_lastCmd : (s.noteBusyAccess).lastCmd = s.lastCmd := rfl
@[simp] theorem State.noteBusyAccess_mrRounds : (s.noteBusyAccess).mrRounds = s.mrRounds := rfl
@[simp] theorem State.noteBusyAccess_rng : (s.noteBusyAccess).rng = s.rng := rfl
@[simp] theorem State.noteBusyAccess_schedule : (s.noteBusyAccess).schedule = s.schedule := rfl
@[simp] theorem State.noteBusyAccess_replies : (s.noteBusyAccess).replies = s.replies := rfl

@[simp] theorem State.answer_params (r : Reply) : (s.answer r).params = s.params := rfl
@[simp] theorem State.answer_x (r : Reply) : (s.answer r).x = s.x := rfl
@[simp] theorem State.answer_busy (r : Reply) : (s.answer r).busy = s.busy := rfl
@[simp] theorem State.answer_done (r : Reply) : (s.answer r).done = s.done := rfl
@[simp] theorem State.answer_err (r : Reply) : (s.answer r).err = s.err := rfl
@[simp] theorem State.answer_z (r : Reply) : (s.answer r).z = s.z := rfl
@[simp] theorem State.answer_errcode (r : Reply) : (s.answer r).errcode = s.errcode := rfl
@[simp] theorem State.answer_intrDone (r : Reply) : (s.answer r).intrDone = s.intrDone := rfl
@[simp] theorem State.answer_intrErr (r : Reply) : (s.answer r).intrErr = s.intrErr := rfl
@[simp] theorem State.answer_doneEn (r : Reply) : (s.answer r).doneEn = s.doneEn := rfl
@[simp] theorem State.answer_errEn (r : Reply) : (s.answer r).errEn = s.errEn := rfl
@[simp] theorem State.answer_overrun (r : Reply) : (s.answer r).overrun = s.overrun := rfl
@[simp] theorem State.answer_busyAcc (r : Reply) : (s.answer r).busyAcc = s.busyAcc := rfl
@[simp] theorem State.answer_lastCmd (r : Reply) : (s.answer r).lastCmd = s.lastCmd := rfl
@[simp] theorem State.answer_mrRounds (r : Reply) : (s.answer r).mrRounds = s.mrRounds := rfl
@[simp] theorem State.answer_rng (r : Reply) : (s.answer r).rng = s.rng := rfl
@[simp] theorem State.answer_schedule (r : Reply) : (s.answer r).schedule = s.schedule := rfl
@[simp] theorem State.answer_replies (r : Reply) : (s.answer r).replies = r :: s.replies := rfl

@[simp] theorem State.writeIntrState_params (w : Word) : (s.writeIntrState w).params = s.params := rfl
@[simp] theorem State.writeIntrState_x (w : Word) : (s.writeIntrState w).x = s.x := rfl
@[simp] theorem State.writeIntrState_busy (w : Word) : (s.writeIntrState w).busy = s.busy := rfl
@[simp] theorem State.writeIntrState_done (w : Word) : (s.writeIntrState w).done = s.done := rfl
@[simp] theorem State.writeIntrState_err (w : Word) : (s.writeIntrState w).err = s.err := rfl
@[simp] theorem State.writeIntrState_z (w : Word) : (s.writeIntrState w).z = s.z := rfl
@[simp] theorem State.writeIntrState_errcode (w : Word) : (s.writeIntrState w).errcode = s.errcode := rfl
@[simp] theorem State.writeIntrState_intrDone (w : Word) :
    (s.writeIntrState w).intrDone = (s.intrDone && !w.getLsbD 0) := rfl
@[simp] theorem State.writeIntrState_intrErr (w : Word) :
    (s.writeIntrState w).intrErr = (s.intrErr && !w.getLsbD 1) := rfl
@[simp] theorem State.writeIntrState_doneEn (w : Word) : (s.writeIntrState w).doneEn = s.doneEn := rfl
@[simp] theorem State.writeIntrState_errEn (w : Word) : (s.writeIntrState w).errEn = s.errEn := rfl
@[simp] theorem State.writeIntrState_overrun (w : Word) : (s.writeIntrState w).overrun = s.overrun := rfl
@[simp] theorem State.writeIntrState_busyAcc (w : Word) : (s.writeIntrState w).busyAcc = s.busyAcc := rfl
@[simp] theorem State.writeIntrState_lastCmd (w : Word) : (s.writeIntrState w).lastCmd = s.lastCmd := rfl
@[simp] theorem State.writeIntrState_mrRounds (w : Word) : (s.writeIntrState w).mrRounds = s.mrRounds := rfl
@[simp] theorem State.writeIntrState_rng (w : Word) : (s.writeIntrState w).rng = s.rng := rfl
@[simp] theorem State.writeIntrState_schedule (w : Word) : (s.writeIntrState w).schedule = s.schedule := rfl
@[simp] theorem State.writeIntrState_replies (w : Word) : (s.writeIntrState w).replies = s.replies := rfl

@[simp] theorem State.writeIntrEnable_params (w : Word) : (s.writeIntrEnable w).params = s.params := rfl
@[simp] theorem State.writeIntrEnable_x (w : Word) : (s.writeIntrEnable w).x = s.x := rfl
@[simp] theorem State.writeIntrEnable_busy (w : Word) : (s.writeIntrEnable w).busy = s.busy := rfl
@[simp] theorem State.writeIntrEnable_done (w : Word) : (s.writeIntrEnable w).done = s.done := rfl
@[simp] theorem State.writeIntrEnable_err (w : Word) : (s.writeIntrEnable w).err = s.err := rfl
@[simp] theorem State.writeIntrEnable_z (w : Word) : (s.writeIntrEnable w).z = s.z := rfl
@[simp] theorem State.writeIntrEnable_errcode (w : Word) : (s.writeIntrEnable w).errcode = s.errcode := rfl
@[simp] theorem State.writeIntrEnable_intrDone (w : Word) : (s.writeIntrEnable w).intrDone = s.intrDone := rfl
@[simp] theorem State.writeIntrEnable_intrErr (w : Word) : (s.writeIntrEnable w).intrErr = s.intrErr := rfl
@[simp] theorem State.writeIntrEnable_doneEn (w : Word) : (s.writeIntrEnable w).doneEn = w.getLsbD 0 := rfl
@[simp] theorem State.writeIntrEnable_errEn (w : Word) : (s.writeIntrEnable w).errEn = w.getLsbD 1 := rfl
@[simp] theorem State.writeIntrEnable_overrun (w : Word) : (s.writeIntrEnable w).overrun = s.overrun := rfl
@[simp] theorem State.writeIntrEnable_busyAcc (w : Word) : (s.writeIntrEnable w).busyAcc = s.busyAcc := rfl
@[simp] theorem State.writeIntrEnable_lastCmd (w : Word) : (s.writeIntrEnable w).lastCmd = s.lastCmd := rfl
@[simp] theorem State.writeIntrEnable_mrRounds (w : Word) : (s.writeIntrEnable w).mrRounds = s.mrRounds := rfl
@[simp] theorem State.writeIntrEnable_rng (w : Word) : (s.writeIntrEnable w).rng = s.rng := rfl
@[simp] theorem State.writeIntrEnable_schedule (w : Word) : (s.writeIntrEnable w).schedule = s.schedule := rfl
@[simp] theorem State.writeIntrEnable_replies (w : Word) : (s.writeIntrEnable w).replies = s.replies := rfl

@[simp] theorem State.writeHosterr_params (w : Word) : (s.writeHosterr w).params = s.params := rfl
@[simp] theorem State.writeHosterr_x (w : Word) : (s.writeHosterr w).x = s.x := rfl
@[simp] theorem State.writeHosterr_busy (w : Word) : (s.writeHosterr w).busy = s.busy := rfl
@[simp] theorem State.writeHosterr_done (w : Word) : (s.writeHosterr w).done = s.done := rfl
@[simp] theorem State.writeHosterr_err (w : Word) : (s.writeHosterr w).err = s.err := rfl
@[simp] theorem State.writeHosterr_z (w : Word) : (s.writeHosterr w).z = s.z := rfl
@[simp] theorem State.writeHosterr_errcode (w : Word) : (s.writeHosterr w).errcode = s.errcode := rfl
@[simp] theorem State.writeHosterr_intrDone (w : Word) : (s.writeHosterr w).intrDone = s.intrDone := rfl
@[simp] theorem State.writeHosterr_intrErr (w : Word) : (s.writeHosterr w).intrErr = s.intrErr := rfl
@[simp] theorem State.writeHosterr_doneEn (w : Word) : (s.writeHosterr w).doneEn = s.doneEn := rfl
@[simp] theorem State.writeHosterr_errEn (w : Word) : (s.writeHosterr w).errEn = s.errEn := rfl
@[simp] theorem State.writeHosterr_overrun (w : Word) :
    (s.writeHosterr w).overrun = (s.overrun && !w.getLsbD 0) := rfl
@[simp] theorem State.writeHosterr_busyAcc (w : Word) :
    (s.writeHosterr w).busyAcc = (s.busyAcc && !w.getLsbD 1) := rfl
@[simp] theorem State.writeHosterr_lastCmd (w : Word) : (s.writeHosterr w).lastCmd = s.lastCmd := rfl
@[simp] theorem State.writeHosterr_mrRounds (w : Word) : (s.writeHosterr w).mrRounds = s.mrRounds := rfl
@[simp] theorem State.writeHosterr_rng (w : Word) : (s.writeHosterr w).rng = s.rng := rfl
@[simp] theorem State.writeHosterr_schedule (w : Word) : (s.writeHosterr w).schedule = s.schedule := rfl
@[simp] theorem State.writeHosterr_replies (w : Word) : (s.writeHosterr w).replies = s.replies := rfl

end Sys2Proof.Machine
end

