-- ==== Sys2Proof/Laws/Ops.lean ====
section
/-! SUPPORT. What the shared operations do, each said once: register writes, a command's commit, a completion, and
one step of the machine. -/

namespace Sys2Proof.Machine

open Sys2Proof

/-- A register after one write. -/
theorem getElem_writeReg (x : Vector Nat 8) (i j : Reg) (v : Nat) :
    (writeReg x i v)[j] = if j = i then v else x[j] := by
  by_cases h : j = i
  · subst h; simp [writeReg]
  · have : i.val ≠ j.val := fun e => h (Fin.ext e.symm)
    simp [writeReg, h, this]

theorem State.reg_setReg (s : State) (i j : Reg) (v : Nat) :
    (s.setReg i v).reg j = if j = i then v else s.reg j := getElem_writeReg s.x i j v

/-- Two states with one register file read alike. -/
theorem State.reg_congr {s t : State} (h : t.x = s.x) (i : Reg) : t.reg i = s.reg i := by
  simp only [State.reg, h]

@[simp] theorem applyWrites_nil (x : Vector Nat 8) : applyWrites x [] = x := rfl

@[simp] theorem applyWrites_cons (x : Vector Nat 8) (w : Reg × Nat) (ws : List (Reg × Nat)) :
    applyWrites x (w :: ws) = applyWrites (writeReg x w.1 w.2) ws := rfl

/-- A register that no write of the list names keeps its value. -/
theorem getElem_applyWrites_of_not_mem (x : Vector Nat 8) (ws : List (Reg × Nat)) (j : Reg)
    (h : ∀ w ∈ ws, w.1 ≠ j) : (applyWrites x ws)[j] = x[j] := by
  induction ws generalizing x with
  | nil => rfl
  | cons w ws ih =>
    have hw : j ≠ w.1 := (h w (by simp)).symm
    rw [applyWrites_cons, ih _ fun v hv => h v (by simp [hv]), getElem_writeReg, if_neg hw]

@[simp] theorem State.commit_ok (s : State) (ws : List (Reg × Nat)) (v : Option Nat) (n : Nat)
    (g : Option Config.RngState) : s.commit (.ok ws v n g) = s.succeed ws v n g := rfl

@[simp] theorem State.commit_err (s : State) (e : CmdError) :
    s.commit (.err e) = s.raiseCmdError e := rfl

/-! What no commit changes, and BUSY, which every commit clears. -/

@[simp] theorem State.commit_params (s : State) (r : Result) : (s.commit r).params = s.params := by
  cases r <;> rfl

@[simp] theorem State.commit_doneEn (s : State) (r : Result) : (s.commit r).doneEn = s.doneEn := by
  cases r <;> rfl

@[simp] theorem State.commit_errEn (s : State) (r : Result) : (s.commit r).errEn = s.errEn := by
  cases r <;> rfl

@[simp] theorem State.commit_overrun (s : State) (r : Result) : (s.commit r).overrun = s.overrun := by
  cases r <;> rfl

@[simp] theorem State.commit_busyAcc (s : State) (r : Result) : (s.commit r).busyAcc = s.busyAcc := by
  cases r <;> rfl

@[simp] theorem State.commit_lastCmd (s : State) (r : Result) : (s.commit r).lastCmd = s.lastCmd := by
  cases r <;> rfl

@[simp] theorem State.commit_schedule (s : State) (r : Result) : (s.commit r).schedule = s.schedule := by
  cases r <;> rfl

@[simp] theorem State.commit_replies (s : State) (r : Result) : (s.commit r).replies = s.replies := by
  cases r <;> rfl

@[simp] theorem State.commit_busy (s : State) (r : Result) : (s.commit r).busy = false := by
  cases r <;> rfl

theorem withModulus_of_zero {s : State} {rm : Reg} (h : s.reg rm = 0) (f : Nat → Result) :
    withModulus s rm f = .err .modZero := if_pos h

theorem withModulus_of_ne {s : State} {rm : Reg} (h : s.reg rm ≠ 0) (f : Nat → Result) :
    withModulus s rm f = f (s.reg rm) := if_neg h

/-- Every command answers a commit: none faults and none is refused. -/
theorem exec_eq_commit (i : Instr) (s : State) : ∃ r, exec i s = .next (s.commit r) := by
  cases i <;> exact ⟨_, rfl⟩

/-- So does a completion, a reserved opcode included. -/
theorem State.completeCommand_eq_commit (s : State) :
    ∃ r, s.completeCommand = .next (s.commit r) := by
  unfold State.completeCommand
  split
  · exact exec_eq_commit _ s
  · exact ⟨_, rfl⟩

/-- What a commit can be: a success or an error. -/
theorem State.commit_cases (s : State) (r : Result) :
    (∃ ws v n g, s.commit r = s.succeed ws v n g) ∨ ∃ e, s.commit r = s.raiseCmdError e := by
  cases r with
  | ok ws v n g => exact .inl ⟨ws, v, n, g, rfl⟩
  | err e => exact .inr ⟨e, rfl⟩

theorem State.engineTurn_of_busy {s : State} (h : s.busy = true) :
    s.engineTurn = s.completeCommand := if_pos h

theorem State.engineTurn_of_idle {s : State} (h : s.busy = false) : s.engineTurn = .next s := by
  simp [State.engineTurn, h]

theorem step_of_nil {s : State} (h : s.schedule = []) : step s = s.engineTurn := by
  simp [step, State.turn, h]

theorem step_of_cons {s : State} {e : Event} {rest : List Event} (h : s.schedule = e :: rest) :
    step s = State.runEvent { s with schedule := rest } e := by
  simp [step, State.turn, h]

/-- Everything the engine's turn can answer: a commit while busy, nothing while idle. -/
theorem State.engineTurn_cases {s t : State} (h : s.engineTurn = .next t) :
    (s.busy = true ∧ ∃ r, t = s.commit r) ∨ (s.busy = false ∧ t = s) := by
  cases hb : s.busy
  · rw [State.engineTurn_of_idle hb] at h
    cases h
    exact .inr ⟨rfl, rfl⟩
  · rw [State.engineTurn_of_busy hb] at h
    obtain ⟨r, hr⟩ := s.completeCommand_eq_commit
    rw [hr] at h
    cases h
    exact .inl ⟨rfl, r, rfl⟩

/-- Everything a host read can answer. -/
theorem State.hostRead_cases {s t : State} {width : Nat} {off : Offset}
    (h : s.hostRead width off = .next t) :
    (∃ c, accessTarget s.params width off = some (.csr c) ∧ t = s.answer (.data (s.readCsr c))) ∨
    (∃ i j, accessTarget s.params width off = some (.window i j) ∧ s.busy = true ∧
      t = s.noteBusyAccess.answer (.data 0)) ∨
    (∃ i j, accessTarget s.params width off = some (.window i j) ∧ s.busy = false ∧
      t = s.answer (.data (wordOf s.params (s.reg i) j))) := by
  unfold State.hostRead at h
  split at h
  · cases h
  · next c hc => cases h; exact .inl ⟨c, hc, rfl⟩
  · next i j hij =>
    split at h
    · next hb => cases h; exact .inr (.inl ⟨i, j, hij, hb, rfl⟩)
    · next hb => cases h; exact .inr (.inr ⟨i, j, hij, by simpa using hb, rfl⟩)

/-- Everything a host write can answer. -/
theorem State.hostWrite_cases {s t : State} {width : Nat} {off : Offset} {w : Word}
    (h : s.hostWrite width off w = .next t) :
    (∃ c, accessTarget s.params width off = some (.csr c) ∧ t = (s.writeCsr c w).answer .written) ∨
    (∃ i j, accessTarget s.params width off = some (.window i j) ∧ s.busy = true ∧
      t = s.noteBusyAccess.answer .written) ∨
    (∃ i j, accessTarget s.params width off = some (.window i j) ∧ s.busy = false ∧
      t = (s.setReg i (replaceWord s.params (s.reg i) j w)).answer .written) := by
  unfold State.hostWrite at h
  split at h
  · cases h
  · next c hc => cases h; exact .inl ⟨c, hc, rfl⟩
  · next i j hij =>
    split at h
    · next hb => cases h; exact .inr (.inl ⟨i, j, hij, hb, rfl⟩)
    · next hb => cases h; exact .inr (.inr ⟨i, j, hij, by simpa using hb, rfl⟩)

/-- What a CSR write can do to the state. -/
theorem State.writeCsr_cases (s : State) (c : Csr) (w : Word) :
    ((c = .id ∨ c = .hwcfg ∨ c = .status ∨ c = .lastcmd ∨ c = .mrRounds ∨
      (c = .ctrl ∧ w.getLsbD 0 = false)) ∧ s.writeCsr c w = s) ∨
    (c = .cmd ∧ s.busy = false ∧ s.writeCsr c w = s.accept w) ∨
    (c = .ctrl ∧ w.getLsbD 0 = true ∧ s.busy = false ∧ s.writeCsr c w = s.hardReset) ∨
    ((c = .cmd ∨ c = .ctrl ∧ w.getLsbD 0 = true) ∧ s.busy = true ∧
      s.writeCsr c w = s.noteOverrun) ∨
    (c = .intrState ∧ s.writeCsr c w = s.writeIntrState w) ∨
    (c = .intrEnable ∧ s.writeCsr c w = s.writeIntrEnable w) ∨
    (c = .hosterr ∧ s.writeCsr c w = s.writeHosterr w) := by
  cases hb : s.busy <;> cases hw : w.getLsbD 0 <;> cases c <;>
    simp only [State.writeCsr, State.writeCtrl, State.writeCmd, hb, hw] <;> simp

/-- Everything a step can do: the engine's turn (an empty schedule or an engine event), a host access, or
a hard reset. -/
theorem step_cases {s t : State} (h : step s = .next t) :
    (s.schedule = [] ∧ s.engineTurn = .next t) ∨
    (∃ rest, s.schedule = .engine :: rest ∧
      State.engineTurn { s with schedule := rest } = .next t) ∨
    (∃ width off rest, s.schedule = .hostRead width off :: rest ∧
      State.hostRead { s with schedule := rest } width off = .next t) ∨
    (∃ width off w rest, s.schedule = .hostWrite width off w :: rest ∧
      State.hostWrite { s with schedule := rest } width off w = .next t) ∨
    (∃ rest, s.schedule = .hardReset :: rest ∧ t = State.hardReset { s with schedule := rest }) := by
  rcases hs : s.schedule with _ | ⟨e, rest⟩
  · exact .inl ⟨rfl, step_of_nil hs ▸ h⟩
  · rw [step_of_cons hs] at h
    cases e with
    | engine => exact .inr (.inl ⟨rest, rfl, h⟩)
    | hostRead width off => exact .inr (.inr (.inl ⟨width, off, rest, rfl, h⟩))
    | hostWrite width off w => exact .inr (.inr (.inr (.inl ⟨width, off, w, rest, rfl, h⟩)))
    | hardReset =>
      have h' : Host.Outcome.next (State.hardReset { s with schedule := rest }) = .next t := h
      exact .inr (.inr (.inr (.inr ⟨rest, rfl, by cases h'; rfl⟩)))

end Sys2Proof.Machine
end

