-- ==== Sys2Proof/Laws/Bus.lean ====
section
/-! SUPPORT. The address map: what each access reaches. -/

namespace Sys2Proof.Machine

open Sys2Proof

/-- A CSR's offset, from the table of 10_state.md R23. -/
theorem csrAt_eq_some {n : Nat} {c : Csr} (h : csrAt n = some c) :
    n = match c with
      | .id => 0x000 | .hwcfg => 0x004 | .ctrl => 0x008 | .cmd => 0x00C | .status => 0x010
      | .intrState => 0x014 | .intrEnable => 0x018 | .hosterr => 0x01C | .lastcmd => 0x020
      | .mrRounds => 0x024 := by
  unfold csrAt at h
  split at h <;> cases h <;> rfl

/-- The same, as an offset. -/
theorem offset_of_csrAt {off : Offset} {c : Csr} (h : csrAt off.toNat = some c) :
    off = match c with
      | .id => 0x000#14 | .hwcfg => 0x004#14 | .ctrl => 0x008#14 | .cmd => 0x00C#14
      | .status => 0x010#14 | .intrState => 0x014#14 | .intrEnable => 0x018#14
      | .hosterr => 0x01C#14 | .lastcmd => 0x020#14 | .mrRounds => 0x024#14 := by
  have := csrAt_eq_some h
  apply BitVec.eq_of_toNat_eq
  cases c <;> simpa using this

/-- Below 0x28 every multiple of 4 is a CSR. -/
theorem csrAt_isSome {n : Nat} (h : n < 0x28) (h4 : n % 4 = 0) : ∃ c, csrAt n = some c := by
  interval_cases n <;> first | exact ⟨_, rfl⟩ | exact absurd h4 (by decide)

/-- From 0x28 on no offset is a CSR. -/
theorem csrAt_eq_none {n : Nat} (h : 0x28 ≤ n) : csrAt n = none := by
  rcases hc : csrAt n with _ | c
  · rfl
  · have := csrAt_eq_some hc
    cases c <;> simp only at this <;> omega

theorem wbits_div (p : Config.Params) : p.wbits / 8 = 4 * p.words := by
  simp only [Config.Params.wbits]; omega

/-- An access reaches a CSR exactly at its offset, aligned and 32 bits wide. -/
theorem accessTarget_eq_csr {p : Config.Params} {width : Nat} {off : Offset} {c : Csr}
    (h : accessTarget p width off = some (.csr c)) : width = 32 ∧ csrAt off.toNat = some c := by
  unfold accessTarget at h
  split at h
  · next hw =>
    split at h
    · next c' hc => cases h; exact ⟨hw.1, hc⟩
    · unfold windowAt at h; split at h <;> cases h
  · cases h

/-- An access that reaches word `j` of a register is aligned, in the window, and 32 bits wide; the register has
such a word. -/
theorem accessTarget_eq_window {p : Config.Params} {width : Nat} {off : Offset} {i : Reg} {j : Nat}
    (h : accessTarget p width off = some (.window i j)) :
    width = 32 ∧ off.toNat % 4 = 0 ∧ InWindow p off ∧ j < p.words := by
  unfold accessTarget at h
  split at h
  · next hw =>
    split at h
    · cases h
    · unfold windowAt at h
      split at h
      · next hin =>
        cases h
        refine ⟨hw.1, hw.2, hin, ?_⟩
        rw [wbits_div]
        have h0 : 0 < 4 * p.words := by have := p.atLeast; omega
        have := Nat.mod_lt (off.toNat - 0x1000) h0
        omega
      · cases h
  · cases h

/-- The word at `OPB(i) + 4j` is reached by its offset (20_memory.md R51). -/
theorem accessTarget_opb (p : Config.Params) (i : Reg) {j : Nat} (hj : j < p.words) :
    accessTarget p 32 (BitVec.ofNat 14 (0x1000 + i.val * (p.wbits / 8) + 4 * j)) =
      some (.window i j) := by
  have hi := i.isLt
  have h256 := p.atMost
  have hw : p.wbits = 32 * p.words := rfl
  have hle : i.val * (4 * p.words) ≤ 7 * (4 * p.words) := Nat.mul_le_mul_right _ (by omega)
  have hoff : (BitVec.ofNat 14 (0x1000 + i.val * (p.wbits / 8) + 4 * j)).toNat =
      0x1000 + i.val * (4 * p.words) + 4 * j := by
    rw [BitVec.toNat_ofNat, wbits_div]; omega
  have h4 : i.val * (4 * p.words) = 4 * (i.val * p.words) := by ring
  have hdiff : 0x1000 + i.val * (4 * p.words) + 4 * j - 0x1000 = 4 * j + 4 * p.words * i.val := by
    have : i.val * (4 * p.words) = 4 * p.words * i.val := Nat.mul_comm _ _
    omega
  have hpos : 0 < 4 * p.words := by omega
  have hdiv : (4 * j + 4 * p.words * i.val) / (4 * p.words) = i.val := by
    rw [Nat.add_mul_div_left _ _ hpos, Nat.div_eq_of_lt (by omega), Nat.zero_add]
  have hmod : (4 * j + 4 * p.words * i.val) % (4 * p.words) / 4 = j := by
    rw [Nat.add_mul_mod_self_left, Nat.mod_eq_of_lt (by omega)]; omega
  have hreg : Fin.ofNat 8 i.val = i := Fin.ext (Nat.mod_eq_of_lt hi)
  unfold accessTarget
  rw [hoff, if_pos ⟨rfl, by omega⟩, csrAt_eq_none (by omega)]
  simp only [windowAt]
  rw [if_pos (by omega), wbits_div, hdiff, hdiv, hmod, hreg]

end Sys2Proof.Machine
end

