-- ==== Sys2Proof/Laws/Encoding.lean ====
section
/-! SUPPORT. The fields of a command word: each field of R69's formula is read back by its slice. -/

namespace Sys2Proof

theorem slice_lt (v hi lo : Nat) : slice v hi lo < 2 ^ (hi - lo + 1) := Nat.mod_lt _ (by positivity)

/-- The word of R69 as a number, where no field is out of range. -/
theorem toNat_commandWord {op : Nat} (hop : op ≤ 0x3F) (rd ra rb rm : Reg) {imm : Nat}
    (himm : imm ≤ 16383) :
    (commandWord op rd ra rb rm imm).toNat =
      op * 2 ^ 26 + rd.val * 2 ^ 23 + ra.val * 2 ^ 20 + rb.val * 2 ^ 17 + rm.val * 2 ^ 14 + imm := by
  simp only [commandWord, BitVec.toNat_ofNat]
  omega

section Fields

variable {op : Nat} (hop : op ≤ 0x3F) (rd ra rb rm : Reg) {imm : Nat} (himm : imm ≤ 16383)

include hop himm

theorem slice_op_commandWord : slice (commandWord op rd ra rb rm imm).toNat 31 26 = op := by
  rw [toNat_commandWord hop _ _ _ _ himm]; simp only [slice]; omega

theorem slice_imm_commandWord : slice (commandWord op rd ra rb rm imm).toNat 13 0 = imm := by
  rw [toNat_commandWord hop _ _ _ _ himm]; simp only [slice]; omega

theorem regField_rd_commandWord : regField (commandWord op rd ra rb rm imm).toNat 25 23 = rd := by
  rw [toNat_commandWord hop _ _ _ _ himm]; ext; simp only [regField, slice, Fin.ofNat]; omega

theorem regField_ra_commandWord : regField (commandWord op rd ra rb rm imm).toNat 22 20 = ra := by
  rw [toNat_commandWord hop _ _ _ _ himm]; ext; simp only [regField, slice, Fin.ofNat]; omega

theorem regField_rb_commandWord : regField (commandWord op rd ra rb rm imm).toNat 19 17 = rb := by
  rw [toNat_commandWord hop _ _ _ _ himm]; ext; simp only [regField, slice, Fin.ofNat]; omega

theorem regField_rm_commandWord : regField (commandWord op rd ra rb rm imm).toNat 16 14 = rm := by
  rw [toNat_commandWord hop _ _ _ _ himm]; ext; simp only [regField, slice, Fin.ofNat]; omega

/-- Every field of a command word is read back, so decoding sees the field values. -/
theorem decode_commandWord :
    decode (commandWord op rd ra rb rm imm) = decodeFields op rd ra rb rm imm := by
  simp only [decode, slice_op_commandWord hop rd ra rb rm himm,
    slice_imm_commandWord hop rd ra rb rm himm, regField_rd_commandWord hop rd ra rb rm himm,
    regField_ra_commandWord hop rd ra rb rm himm, regField_rb_commandWord hop rd ra rb rm himm,
    regField_rm_commandWord hop rd ra rb rm himm]

end Fields

/-- Fields give a command, or the opcode is reserved. -/
theorem decodeFields_cases {op : Nat} (hop : op ≤ 0x3F) (rd ra rb rm : Reg) (imm : Nat) :
    (ReservedOpcode op ∧ decodeFields op rd ra rb rm imm = .error (.reservedOpcode op)) ∨
    (¬ReservedOpcode op ∧ ∃ i, decodeFields op rd ra rb rm imm = .ok i ∧ i.opcode = op) := by
  interval_cases op <;>
    first
    | exact .inl ⟨by decide, rfl⟩
    | exact .inr ⟨by decide, _, rfl, rfl⟩

end Sys2Proof
end

