-- ==== Sys2Proof/Laws/PerInstr.lean ====
section
/-! SUPPORT. One law for each command: its canonical word carries its opcode in bits 31 to 26 (30_encoding.md R69). -/

namespace Sys2Proof.Laws.CarriesOpcode

open Sys2Proof

/-- The canonical word of a well-formed command carries its opcode. -/
def Statement (i : Instr) : Prop := i.WellFormed → slice (encode i).toNat 31 26 = i.opcode

theorem of_word {op : Nat} (hop : op ≤ 0x3F) (rd ra rb rm : Reg) {imm : Nat} (h : immFits imm = true) :
    slice (commandWord op rd ra rb rm imm).toNat 31 26 = op :=
  slice_op_commandWord hop rd ra rb rm (by simpa [immFits] using h)

theorem nop : Statement .nop := fun _ => of_word (by decide) _ _ _ _ rfl
theorem mov (rd ra : Reg) : Statement (.mov rd ra) := fun _ => of_word (by decide) _ _ _ _ rfl
theorem ldi (rd : Reg) (imm : Nat) : Statement (.ldi rd imm) := fun h => of_word (by decide) _ _ _ _ h
theorem modred (rd ra rm : Reg) : Statement (.modred rd ra rm) := fun _ => of_word (by decide) _ _ _ _ rfl
theorem modmul (rd ra rb rm : Reg) : Statement (.modmul rd ra rb rm) := fun _ => of_word (by decide) _ _ _ _ rfl
theorem modsqr (rd ra rm : Reg) : Statement (.modsqr rd ra rm) := fun _ => of_word (by decide) _ _ _ _ rfl
theorem sqrn (rd ra rm : Reg) (k : Nat) : Statement (.sqrn rd ra rm k) := fun h => of_word (by decide) _ _ _ _ h
theorem powmod (rd ra rb rm : Reg) : Statement (.powmod rd ra rb rm) := fun _ => of_word (by decide) _ _ _ _ rfl
theorem decomp (rd rb ra : Reg) : Statement (.decomp rd rb ra) := fun _ => of_word (by decide) _ _ _ _ rfl
theorem mrround (rd ra rb : Reg) : Statement (.mrround rd ra rb) := fun _ => of_word (by decide) _ _ _ _ rfl
theorem mrtest (rd ra : Reg) (k : Nat) : Statement (.mrtest rd ra k) := fun h => of_word (by decide) _ _ _ _ h
theorem seed (ra : Reg) : Statement (.seed ra) := fun _ => of_word (by decide) _ _ _ _ rfl
theorem unseed : Statement .unseed := fun _ => of_word (by decide) _ _ _ _ rfl

end Sys2Proof.Laws.CarriesOpcode
end

