-- ==== Sys2Proof/Laws/Script.lean ====
section
/-! SUPPORT. Which schedules host scripts give: every interleaving of 32-bit accesses and turns of the engine. -/

namespace Sys2Proof.Machine

open Sys2Proof

/-- WOP is the W lines of its words, so a turn of the engine can be written between any two of them
(30_encoding.md R76, 20_memory.md R59). -/
theorem wop_events_eq_w_lines (p : Config.Params) (i : Reg) (v : Nat) :
    (ScriptLine.wop i v).events p =
      ((List.range p.words).map fun j => ScriptLine.w (wordOffset p i j) (wordOf p v j)).flatMap
        (ScriptLine.events p) := by
  simp only [ScriptLine.events, List.flatMap_map]
  exact List.map_eq_flatMap

/-- ROP is the R lines of its words (R76). -/
theorem rop_events_eq_r_lines (p : Config.Params) (i : Reg) :
    (ScriptLine.rop i).events p =
      ((List.range p.words).map fun j => ScriptLine.r (wordOffset p i j)).flatMap (ScriptLine.events p) := by
  simp only [ScriptLine.events, List.flatMap_map]
  exact List.map_eq_flatMap

/-- Every interleaving of 32-bit host accesses and turns of the engine is the schedule of some script (R59). -/
theorem every_interleaving_is_a_script (p : Config.Params) (es : List Event)
    (h : ∀ e ∈ es, e = .engine ∨ (∃ off, e = .hostRead 32 off) ∨ ∃ off w, e = .hostWrite 32 off w) :
    ∃ script : List ScriptLine, script.flatMap (ScriptLine.events p) = es := by
  induction es with
  | nil => exact ⟨[], rfl⟩
  | cons e es ih =>
    obtain ⟨script, hs⟩ := ih fun e' he => h e' (List.mem_cons_of_mem e he)
    rcases h e List.mem_cons_self with rfl | ⟨off, rfl⟩ | ⟨off, w, rfl⟩
    · exact ⟨.engine :: script, by simp [ScriptLine.events, hs]⟩
    · exact ⟨.r off :: script, by simp [ScriptLine.events, hs]⟩
    · exact ⟨.w off w :: script, by simp [ScriptLine.events, hs]⟩

end Sys2Proof.Machine
end

