-- ==== Sys2Proof/Tests/Slice0.lean ====
section
/-! SUPPORT. Tests whose expected results stand in the spec (95_test_vectors.md unless a comment names another place),
and for each statement a witness of its hypotheses. Everything is in REF64. -/

namespace Sys2Proof.Tests

open Sys2Proof Sys2Proof.Machine

/-- One thing about the next state; `none` on a fault or a refusal. -/
def after {α : Type} (o : Host.Outcome State Fault Refusal) (f : State → α) : Option α :=
  match o with
  | .next t => some (f t)
  | .fault _ => none
  | .refused _ => none

/-- The reset state with some registers written. -/
def regs (l : List (Reg × Nat)) : State := { State.reset with x := applyWrites State.reset.x l }

/-- A command word in flight over some registers. -/
def flying (w : Word) (l : List (Reg × Nat)) : State := { regs l with busy := true, lastCmd := w }

/-- The random context seeded with some state. -/
def seeded (s : State) : State := { s with rng := some ⟨0⟩ }

/-- Some events still to come. -/
def queued (s : State) (es : List Event) : State := { s with schedule := es }

/-! ## Ill-formed commands are refused by the check (30_encoding.md R73) -/

theorem test_ldi_too_large : ¬(Instr.ldi 0 16384).WellFormed := by decide
theorem test_sqrn_too_large : ¬(Instr.sqrn 0 1 2 16384).WellFormed := by decide
theorem test_mrtest_too_large : ¬(Instr.mrtest 0 1 16384).WellFormed := by decide
theorem test_ldi_largest : (Instr.ldi 0 16383).WellFormed := by decide

/-! ## Words written out from the encoding (section 2, each command's word) -/

theorem test_decode_nop : decode 0x00000000 = .ok .nop := by decide
theorem test_decode_nop_other_bits : decode 0x03FFFFFF = .ok .nop := by decide
theorem test_decode_mov : decode 0x06A00000 = .ok (.mov 5 2) := by decide
theorem test_decode_ldi : decode 0x08003FFF = .ok (.ldi 0 16383) := by decide
theorem test_decode_modred : decode 0x21808000 = .ok (.modred 3 0 2) := by decide
theorem test_decode_modmul : decode 0x25828000 = .ok (.modmul 3 0 1 2) := by decide
theorem test_decode_modsqr : decode 0x29808000 = .ok (.modsqr 3 0 2) := by decide
theorem test_decode_sqrn : decode 0x2D80BFFF = .ok (.sqrn 3 0 2 16383) := by decide
theorem test_decode_powmod : decode 0x32A70000 = .ok (.powmod 5 2 3 4) := by decide
theorem test_decode_decomp : decode 0x40840000 = .ok (.decomp 1 2 0) := by decide
theorem test_decode_mrround : decode 0x47060000 = .ok (.mrround 6 0 3) := by decide
theorem test_decode_mrtest : decode 0x49A00005 = .ok (.mrtest 3 2 5) := by decide
theorem test_decode_seed : decode 0x60400000 = .ok (.seed 4) := by decide
theorem test_decode_unseed : decode 0x64000000 = .ok .unseed := by decide
theorem test_decode_reserved_low : decode 0x0C000000 = .error (.reservedOpcode 0x03) := by decide
theorem test_decode_reserved_high : decode 0xFC000000 = .error (.reservedOpcode 0x3F) := by decide
theorem test_encode_encrypt : encode (Pseudo.encrypt 3 0 2).expand = 0x31848000 := by decide
theorem test_encode_clr : encode (Pseudo.clr 7).expand = 0x0B800000 := by decide

/-! ## Commands (section 2.1 to 2.4) -/

-- U1
theorem test_nop_status : after (step (flying 0x00000000 [])) State.statusWord = some 0x00000002 := by decide
-- U4
theorem test_mov_zero : after (step (flying 0x06A00000 [(5, 9)])) (fun t => (t.reg 5, t.statusWord)) =
    some (0, 0x0000000A) := by decide
-- U5
theorem test_mov_unreduced : after (step (flying 0x06A00000 [(2, 2 ^ 64 - 1)])) (·.reg 5) =
    some 0xFFFFFFFFFFFFFFFF := by decide
-- U8
theorem test_ldi_clears_high_bits : after (step (flying 0x08003FFF [(0, 2 ^ 64 - 1)])) (·.reg 0) =
    some 0x3FFF := by decide
-- U9
theorem test_ldi_zero_sets_z : after (step (flying 0x0B800000 [])) State.statusWord = some 0x0000000A := by
  decide
-- M4
theorem test_modred : after (step (flying 0x21808000 [(0, 2 ^ 64 - 1), (2, 2 ^ 32)])) (·.reg 3) =
    some 0xFFFFFFFF := by decide
-- M6
theorem test_modred_zero_modulus : after (step (flying 0x21808000 [(0, 12345), (3, 8)]))
    (fun t => (t.reg 3, t.statusWord)) = some (8, 0x00000204) := by decide
-- M7
theorem test_modmul_full_product :
    after (step (flying 0x25828000 [(0, 2 ^ 64 - 1), (1, 2 ^ 64 - 1), (2, 2 ^ 64 - 59)])) (·.reg 3) =
    some 3364 := by decide
-- M12
theorem test_modsqr : after (step (flying 0x29808000 [(0, 12345678901), (2, 1000000007)])) (·.reg 3) =
    some 686062588 := by decide
-- M15, k = 3
theorem test_sqrn : after (step (flying 0x2D808003 [(0, 3), (2, 7)])) (·.reg 3) = some 2 := by decide
-- M18
theorem test_sqrn_no_squaring : after (step (flying 0x2D808000 [(0, 5), (2, 3)])) (·.reg 3) = some 2 := by
  decide
-- M20, the source's example
theorem test_powmod : after (step (flying 0x31828000 [(0, 4), (1, 13), (2, 497)])) (·.reg 3) =
    some 445 := by decide
-- M23
theorem test_powmod_modulus_one : after (step (flying 0x31828000 [(0, 5), (2, 1)]))
    (fun t => (t.reg 3, t.statusWord)) = some (0, 0x0000000A) := by decide
-- T12
theorem test_decomp_source_is_destination : after (step (flying 0x40040000 [(0, 561)]))
    (fun t => (t.reg 0, t.reg 2)) = some (35, 4) := by decide
-- T11
theorem test_decomp_operand_before_domain : after (step (flying 0x40820000 [(0, 1)])) State.statusWord =
    some 0x00000404 := by decide
-- T16: n - 1 is reached at the last allowed squaring
theorem test_mrround_last_squaring : after (step (flying 0x45020000 [(0, 97), (1, 5)]))
    (fun t => (t.reg 2, t.statusWord, t.mrRounds)) = some (1, 0x00000002, 1) := by decide +kernel
-- T24
theorem test_mrround_base_too_large : after (step (flying 0x45020000 [(0, 9), (1, 8)])) State.statusWord =
    some 0x00000304 := by decide
-- T34
theorem test_mrtest_three : after (step (seeded (flying 0x48800032 [(0, 3)])))
    (fun t => (t.reg 1, t.statusWord, t.mrRounds)) = some (1, 0x00000012, 0) := by decide
-- T45
theorem test_mrtest_unseeded : after (step (flying 0x48800005 [(0, 4)])) State.statusWord =
    some 0x00000504 := by decide
-- R1
theorem test_seed : after (step (flying 0x60400000 [(4, 42)])) (·.rng) = some (some (Config.rngInit Config.ref64 42)) :=
  rfl
-- R3
theorem test_seed_twice : after (step (seeded (flying 0x60400000 [(4, 42)])))
    (fun t => (t.rng, t.statusWord)) = some (some ⟨0⟩, 0x00000614) := by decide
-- R4
theorem test_unseed : after (step (seeded (flying 0x64000000 []))) (fun t => (t.rng, t.statusWord)) =
    some (none, 0x00000002) := by decide
-- R5
theorem test_unseed_unseeded : after (step (flying 0x64000000 [])) State.statusWord = some 0x00000604 := by
  decide

/-! ## The host's accesses (section 2.5) -/

-- H2
theorem test_read_hwcfg : after (step (queued State.reset [.hostRead 32 0x004])) (·.replies) =
    some [.data 0x00180002] := by decide
-- H7
theorem test_intr_enable_reserved_bits :
    after (step (queued State.reset [.hostWrite 32 0x018 0xFFFFFFFF])) State.intrEnableWord =
    some 0x00000003 := by decide
-- H8
theorem test_unmapped_read : after (step (queued State.reset [.hostRead 32 0x1040])) (·.replies) = none := by
  decide
-- H12
theorem test_window_write_keeps_other_word :
    after (step (queued (regs [(0, 0x0000000100000002)]) [.hostWrite 32 0x1004 0xFFFFFFFF])) (·.reg 0) =
    some 0x00000001FFFFFFFF := by decide
-- H11: the most significant word is at the lowest offset
theorem test_window_read_high_word :
    after (step (queued (regs [(1, 0x0000000100000002)]) [.hostRead 32 0x1008])) (·.replies) =
    some [.data 0x00000001] := by decide
-- H14
theorem test_window_write_busy :
    after (step (queued (flying 0 [(0, 5)]) [.hostWrite 32 0x1004 9])) (fun t => (t.reg 0, t.hosterrWord)) =
    some (5, 0x00000002) := by decide
-- H15
theorem test_cmd_write_busy :
    after (step (queued (flying 0x31828000 []) [.hostWrite 32 0x00C 0])) (fun t => (t.lastCmd, t.hosterrWord)) =
    some (0x31828000, 0x00000001) := by decide
-- H19
theorem test_hard_reset_busy :
    after (step (queued (flying 0x31828000 [(0, 5)]) [.hardReset])) (fun t => (t.reg 0, t.statusWord, t.irq)) =
    some (0, 0, false) := by decide
-- H21
theorem test_illegal_opcode : after (step (flying 0x0C000000 [])) (fun t => (t.statusWord, t.lastCmd)) =
    some (0x00000104, 0x0C000000) := by decide
-- H25
theorem test_irq : after (step { flying 0 [] with doneEn := true, errEn := true }) State.irq = some true := by
  decide

/-! ## The assembler (30_encoding.md R73, R74; 95_test_vectors.md section 3) -/

theorem test_assemble_powmod : (assembleLine ("POWMOD r3, r0, r1, r2 ; P1".toList)).map (·.map encode) =
    some (some 0x31828000) := by decide
theorem test_assemble_decrypt : (assembleLine ("decrypt r5,r2,r3,r4".toList)).map (·.map encode) =
    some (some 0x32A70000) := by decide
theorem test_assemble_rejects_large : assembleLine ("LDI r0, 0x4000".toList) = none := by decide

/-- 30_encoding.md R76: `C LDI r0, 4` is one CMD write of its canonical word. -/
theorem test_script_command : ScriptLine.events Config.ref64 (.c (.ldi 0 4)) =
    [.hostWrite 32 0x00C 0x08000004] := by decide

/-- 95_test_vectors.md P5, case 2: POWMOD completes between the accesses A2 and A3, and the WAIT polls once. -/
theorem test_script_completion_between_accesses :
    (queued State.reset []).withScript [.c (.powmod 3 0 1 2), .c .nop, .engine, .r 0x1018, .wait 0] =
      queued State.reset [.hostWrite 32 0x00C 0x31828000, .hostWrite 32 0x00C 0, .engine,
        .hostRead 32 0x1018, .engine, .hostRead 32 0x010] := by decide

/-! ## Witnesses: each statement's hypotheses can be met, clause by clause -/

theorem witness_DecodeOfEncodeGivesTheCommandBack : (Instr.sqrn 7 6 5 16383).WellFormed := by decide

theorem witness_DecodedCommandsAreWellFormed : decode 0x2D80BFFF = .ok (.sqrn 3 0 2 16383) := by decide

/-- Every boundary of the reserved ranges, and an idle and a busy machine that meets each clause. -/
theorem witness_ReservedOpcodesCompleteWithIllegalOpcode :
    (∀ op ∈ [0x03, 0x07, 0x0D, 0x0F, 0x13, 0x17, 0x1A, 0x3F], ReservedOpcode op) ∧
    ReservedOpcode (slice (0x0C000000 : Word).toNat 31 26) ∧
    (queued State.reset [.hostWrite 32 0x00C 0x0C000000]).busy = false ∧
    (flying 0x0C000000 []).busy = true ∧ EngineNext (flying 0x0C000000 []) [] := by
  refine ⟨by decide, by decide, rfl, rfl, .inr ⟨rfl, rfl⟩⟩

theorem witness_StepRunsTheDecodedCommand :
    decode 0x00000000 = .ok .nop ∧ (flying 0 []).busy = true ∧ (flying 0 []).lastCmd = 0 ∧
    EngineNext (flying 0 []) [] ∧ EngineNext (queued (flying 0 []) [.engine, .hardReset]) [.hardReset] :=
  ⟨by decide, rfl, rfl, .inr ⟨rfl, rfl⟩, .inl rfl⟩

theorem witness_AnIdleEngineDoesNothing :
    State.reset.busy = false ∧ EngineNext State.reset [] ∧ EngineNext (queued State.reset [.engine]) [] :=
  ⟨rfl, .inr ⟨rfl, rfl⟩, .inl rfl⟩

theorem witness_EveryAcceptedCommandCompletes :
    ∀ e ∈ (queued (flying 0 []) [.hostRead 32 0x024, .hostWrite 32 0x103C 1, .engine, .hardReset]).schedule,
      e.Legal Config.ref64 := by
  simp [queued, Event.Legal, LegalAccess, Mapped, Config.ref64, Config.Params.wbits]

/-- The immediates of NopOnlyReportsDone, MovCopiesTheRegister, LdiWritesTheImmediate, SeedInitialisesOnce,
UnseedTearsDownOnce and PseudoCommandsAreSpellings, at both ends of the range. -/
theorem witness_immediates : (0 : Nat) ≤ 16383 ∧ (16383 : Nat) ≤ 16383 := by decide

/-- The clauses of ModredWritesTheRemainder, ModmulWritesTheReducedProduct, ModsqrWritesTheReducedSquare,
SqrnWritesTheIteratedSquare and PowmodWritesThePower: a zero and a nonzero modulus, the largest immediate. -/
theorem witness_ModularCommands :
    16383 ≤ 16383 ∧ (regs []).reg 2 = 0 ∧ (regs [(2, 1)]).reg 2 ≠ 0 := by decide

theorem witness_ModulusOneGivesZero : (regs [(2, 1)]).reg 2 = 1 := by decide

theorem witness_DecomposeSplitsOffTheTwos :
    2 ≤ 2 ∧ 2 < 2 ^ Config.ref64.wbits ∧ 2 % 2 = 0 ∧ 2 ≤ 2 ^ 63 + 1 ∧ 2 ^ 63 + 1 < 2 ^ Config.ref64.wbits := by
  decide

theorem witness_DecompWritesTheOddPartAndTheExponent :
    (1 : Reg) ≠ 2 ∧ (regs [(0, 1)]).reg 0 < 2 ∧ 2 ≤ (regs [(0, 2)]).reg 0 := by decide

theorem witness_TrialFindsOneOrMinusOne :
    5 % 2 = 1 ∧ 5 ≤ 5 ∧ 5 - 1 = 2 ^ 2 * 1 ∧ 1 % 2 = 1 ∧ trial 5 2 = true ∧ trial 9 7 = false := by decide

theorem witness_PrimesPassEveryTrial : (5 : Nat).Prime ∧ 5 ≤ 5 ∧ 2 ≤ 3 ∧ 3 ≤ 5 - 2 := by
  refine ⟨by norm_num, by decide, by decide, by decide⟩

theorem witness_FailedTrialsProveComposite :
    9 % 2 = 1 ∧ 5 ≤ 9 ∧ 2 ≤ 7 ∧ 7 ≤ 9 - 2 ∧ trial 9 7 = false := by decide

/-- MRROUND: each way to leave the domain at its boundary, and both verdicts inside it. -/
theorem witness_MrroundWritesTheVerdictOfOneTrial :
    (regs [(0, 4)]).reg 0 % 2 = 0 ∧ (regs [(0, 3)]).reg 0 < 5 ∧ (regs [(1, 1)]).reg 1 < 2 ∧
    (regs [(0, 5), (1, 4)]).reg 0 - 2 < (regs [(0, 5), (1, 4)]).reg 1 ∧
    (regs [(0, 5), (1, 3)]).reg 1 ≤ (regs [(0, 5), (1, 3)]).reg 0 - 2 ∧ trial 5 3 = true ∧
    trial 9 2 = false := by decide

/-- Every draw for 5 is 2 or 3, and 5 passes with both. -/
theorem passes_five (p : Config.Params) (st : Config.RngState) (j : Nat) : trial 5 (baseAt p st 5 j) = true := by
  have key : ∀ r < 2, trial 5 (2 + r) = true := by decide
  rw [baseAt, rngDraw_base p _ (by decide) (by decide)]
  exact key _ (Nat.mod_lt _ (by decide))

/-- Every draw for 9 is a base from 2 to 7, and 9 fails with each. -/
theorem fails_nine (p : Config.Params) (st : Config.RngState) (j : Nat) : trial 9 (baseAt p st 9 j) = false := by
  have key : ∀ r < 6, trial 9 (2 + r) = false := by decide
  rw [baseAt, rngDraw_base p _ (by decide) (by decide)]
  exact key _ (Nat.mod_lt _ (by decide))

/-- MRTEST: unseeded, each short-circuit, all of three rounds passing, and a first round that fails. -/
theorem witness_MrtestRunsTheRoundsItNeeds :
    (regs []).rng = none ∧ (seeded (regs [(0, 4)])).rng = some ⟨0⟩ ∧
    (seeded (regs [(0, 4)])).reg 0 % 2 = 0 ∧ 2 < (seeded (regs [(0, 4)])).reg 0 ∧
    (seeded (regs [(0, 3)])).reg 0 = 3 ∧
    (∀ j < 3, trial 5 (baseAt Config.ref64 ⟨0⟩ 5 j) = true) ∧
    ((∀ l < 0, trial 9 (baseAt Config.ref64 ⟨0⟩ 9 l) = true) ∧ trial 9 (baseAt Config.ref64 ⟨0⟩ 9 0) = false) :=
  ⟨rfl, rfl, by decide, by decide, by decide, fun j _ => passes_five _ _ j,
    fun _ h => absurd h (Nat.not_lt_zero _), fails_nine _ _ 0⟩

theorem witness_MrtestAcceptsEveryPrime :
    (seeded (regs [(0, 5)])).rng = some ⟨0⟩ ∧ ((seeded (regs [(0, 5)])).reg 0).Prime := by
  refine ⟨rfl, ?_⟩
  have h : (seeded (regs [(0, 5)])).reg 0 = 5 := by decide
  rw [h]; norm_num

theorem witness_MrtestRejectsOnlyComposites :
    ∃ t, exec (.mrtest 1 0 0) (seeded (regs [(0, 6)])) = .next t ∧
      (seeded (regs [(0, 6)])).rng.isSome = true ∧ 5 ≤ (seeded (regs [(0, 6)])).reg 0 ∧ t.reg 1 = 0 :=
  ⟨_, rfl, rfl, by decide, by decide⟩

theorem witness_SeedAndUnseed : (regs []).rng = none ∧ (seeded (regs [])).rng = some ⟨0⟩ := ⟨rfl, rfl⟩

theorem witness_DrawsLieInTheBaseRange : 5 % 2 = 1 ∧ 5 ≤ 5 := by decide

theorem witness_CommandsWriteOnlyTheirDestinations :
    (∃ t, exec (.mov 5 2) (regs [(2, 7)]) = .next t) ∧ (2 : Reg) ∉ destinations (.mov 5 2) ∧
    usesRandomContext (.mov 5 2) = false := ⟨⟨_, rfl⟩, by decide, rfl⟩

theorem witness_CommandResultsFitTheRegisters :
    (Instr.mov 5 2).WellFormed ∧
    (∀ r : Reg, (regs [(2, 2 ^ 64 - 1)]).reg r < 2 ^ (regs []).params.wbits) ∧
    ∃ t, exec (.mov 5 2) (regs [(2, 2 ^ 64 - 1)]) = .next t := ⟨by decide, by decide, ⟨_, rfl⟩⟩

/-- A state with a command in flight meets the invariant. -/
theorem inv_flying : (flying 0 []).Inv where
  regsFit := by decide
  oneReport := by decide
  busyClear := by decide
  codeKnown := by decide
  codeIffErr := by decide
  zOfSuccess := by decide
  roundsOfSuccess := by decide
  roundsBound := by decide

theorem witness_CompletionSetsExactlyOneOfDoneAndErr :
    (flying 0 []).Inv ∧ (flying 0 []).busy = true ∧ EngineNext (flying 0 []) [] ∧
    ∃ t, step (flying 0 []) = .next t := ⟨inv_flying, rfl, .inr ⟨rfl, rfl⟩, _, rfl⟩

theorem witness_EveryStepKeepsTheInvariant : (flying 0 []).Inv ∧ ∃ t, step (flying 0 []) = .next t :=
  ⟨inv_flying, _, rfl⟩

theorem witness_NoStepChangesTheConfiguration :
    ∃ t, step (queued State.reset [.hardReset]) = .next t := ⟨_, rfl⟩

theorem witness_BusyIsSetByAcceptanceAndClearedByCompletion :
    (∃ t, step (queued State.reset [.hostWrite 32 0x00C 0]) = .next t ∧ State.reset.busy = false ∧
      t.busy = true) ∧
    ∃ t, step (flying 0 []) = .next t ∧ t.busy = false := ⟨⟨_, rfl, rfl, rfl⟩, _, rfl, rfl⟩

theorem witness_LastcmdHoldsTheLatestAcceptance :
    (ResetNext (queued (flying 0 []) [.hardReset]) ∧
      ResetNext (queued State.reset [.hostWrite 32 0x008 1])) ∧
    (∃ t, step (queued State.reset [.hostWrite 32 0x00C 5]) = .next t) ∧
    (¬ResetNext (queued (flying 9 []) [.hostWrite 32 0x00C 5]) ∧
      ∃ t, step (queued (flying 9 []) [.hostWrite 32 0x00C 5]) = .next t ∧ t.lastCmd = 9) := by
  refine ⟨⟨.inl ⟨[], rfl⟩, .inr ⟨rfl, 1, [], by decide, rfl⟩⟩, ⟨_, rfl⟩, ?_, _, rfl, rfl⟩
  simp [ResetNext, queued, flying]

theorem witness_RandomContextChangesOnlyByItsCommands :
    (∃ t, step (queued (seeded State.reset) [.hardReset]) = .next t ∧ t.rng ≠ (seeded State.reset).rng) ∧
    ∃ t, step (seeded (flying 0x64000000 [])) = .next t ∧ t.rng ≠ (seeded State.reset).rng :=
  ⟨⟨_, rfl, by decide⟩, _, rfl, by decide⟩

theorem witness_NoHostAccessDisturbsTheCommandInFlight :
    (flying 0 []).busy = true ∧ Event.IsHost (.hostWrite 32 0x008 1) ∧
    ∃ t, step (queued (flying 0 []) [.hostWrite 32 0x008 1]) = .next t := ⟨rfl, trivial, _, rfl⟩

theorem witness_HardResetClearsEverything :
    (queued (flying 0 [(0, 5)]) [.hardReset, .engine]).schedule = .hardReset :: [.engine] := rfl

theorem witness_AcceptanceStartsTheCommandOrNotesTheOverrun :
    (queued (flying 0 []) [.hostWrite 32 0x00C 5]).schedule = [.hostWrite 32 0x00C 5] ∧
    (queued (flying 0 []) [.hostWrite 32 0x00C 5]).busy = true ∧
    (queued State.reset [.hostWrite 32 0x00C 5]).busy = false := ⟨rfl, rfl, rfl⟩

/-- The first and the last CSR; the ten offsets of the statement are distinct, so no two clauses meet. -/
theorem witness_CsrReadsReturnTheirRegisters :
    (queued (flying 0 []) [.hostRead 32 0x000]).schedule = [.hostRead 32 0x000] ∧
    (queued State.reset [.hostRead 32 0x024]).schedule = [.hostRead 32 0x024] ∧
    [0x000#14, 0x004#14, 0x008#14, 0x00C#14, 0x010#14, 0x014#14, 0x018#14, 0x01C#14, 0x020#14,
      0x024#14].Nodup := ⟨rfl, rfl, by decide⟩

/-- The writes of ReadOnlyCsrsIgnoreWrites (its first and last offset), IntrEnableReadsBackWhatWasWritten and
WritingOneClearsAStickyBit. -/
theorem witness_CsrWrites :
    (queued State.reset [.hostWrite 32 0x000 1]).schedule = [.hostWrite 32 0x000 1] ∧
    (queued State.reset [.hostWrite 32 0x024 1]).schedule = [.hostWrite 32 0x024 1] ∧
    (queued State.reset [.hostWrite 32 0x018 1]).schedule = [.hostWrite 32 0x018 1] ∧
    (queued State.reset [.hostWrite 32 0x014 1]).schedule = [.hostWrite 32 0x014 1] ∧
    (queued State.reset [.hostWrite 32 0x01C 1]).schedule = [.hostWrite 32 0x01C 1] :=
  ⟨rfl, rfl, rfl, rfl, rfl⟩

theorem witness_SoftResetIsGrantedOnlyWhileIdle :
    (1 : Word).getLsbD 0 = true ∧ (2 : Word).getLsbD 0 = false ∧ (regs []).busy = false ∧
    (flying 0 []).busy = true := by decide

theorem witness_BusErrorsAreExactlyTheIllegalAccesses :
    LegalAccess Config.ref64 32 0x024 ∧ LegalAccess Config.ref64 32 0x103C ∧
    ¬LegalAccess Config.ref64 32 0x028 ∧ ¬LegalAccess Config.ref64 32 0xFFC ∧
    ¬LegalAccess Config.ref64 32 0x1040 ∧ ¬LegalAccess Config.ref64 32 0x1002 ∧
    ¬LegalAccess Config.ref64 16 0x1000 := by
  simp [LegalAccess, Mapped, Config.ref64, Config.Params.wbits]

theorem witness_HostReadsHaveNoOtherSideEffect :
    (∃ t, step (queued (flying 0 []) [.hostRead 32 0x1000]) = .next t ∧ t.busyAcc = true) ∧
    ∃ t, step (queued (flying 0 []) [.hostRead 32 0x024]) = .next t ∧ t.busyAcc = false :=
  ⟨⟨_, rfl, rfl⟩, _, rfl, rfl⟩

theorem witness_PendingBitsAreSetByCompletionsOnly :
    (∃ t, step (flying 0 []) = .next t ∧ t.intrDone = true) ∧
    (∃ t, step (flying 0x0C000000 []) = .next t ∧ t.intrErr = true) ∧
    (∃ t, step (queued { State.reset with intrDone := true } [.hostWrite 32 0x014 1]) = .next t ∧
      t.intrDone = false) ∧
    ∃ t, step (queued { State.reset with intrErr := true } [.hardReset]) = .next t ∧ t.intrErr = false :=
  ⟨⟨_, rfl, rfl⟩, ⟨_, rfl, rfl⟩, ⟨_, rfl, by decide⟩, _, rfl, rfl⟩

/-- A rise by each cause, and a state on each side of the level. -/
theorem witness_IrqRisesOnlyByCompletionOrEnable :
    ({ State.reset with intrErr := true, errEn := true }).irq = true ∧
    ({ State.reset with intrErr := true, doneEn := true }).irq = false ∧
    (∃ t, step { flying 0 [] with doneEn := true } = .next t ∧ t.irq = true) ∧
    ∃ t, step (queued { State.reset with intrErr := true } [.hostWrite 32 0x018 2]) = .next t ∧
      t.irq = true := ⟨by decide, by decide, ⟨_, rfl, by decide⟩, _, rfl, by decide⟩

/-- Each access that is dropped while busy (the first and the last word of the window among them), and each way a bit
is cleared. -/
theorem witness_HosterrRecordsDroppedAccesses :
    (∃ t, step (queued (flying 0 []) [.hostWrite 32 0x00C 1]) = .next t ∧ t.overrun = true) ∧
    (∃ t, step (queued (flying 0 []) [.hostWrite 32 0x008 1]) = .next t ∧ t.overrun = true) ∧
    (∃ t, step (queued (flying 0 []) [.hostRead 32 0x1000]) = .next t ∧ t.busyAcc = true) ∧
    (∃ t, step (queued (flying 0 []) [.hostWrite 32 0x103C 1]) = .next t ∧ t.busyAcc = true) ∧
    (∃ t, step (queued { State.reset with overrun := true } [.hostWrite 32 0x01C 1]) = .next t ∧
      t.overrun = false) ∧
    (∃ t, step (queued { State.reset with busyAcc := true } [.hostWrite 32 0x01C 2]) = .next t ∧
      t.busyAcc = false) ∧
    ∃ t, step (queued { flying 0 [] with overrun := true, busyAcc := true } [.hardReset]) = .next t ∧
      t.overrun = false ∧ t.busyAcc = false :=
  ⟨⟨_, rfl, by decide⟩, ⟨_, rfl, by decide⟩, ⟨_, rfl, by decide⟩, ⟨_, rfl, by decide⟩, ⟨_, rfl, by decide⟩,
    ⟨_, rfl, by decide⟩, _, rfl, rfl, rfl⟩

/-- The premises of that statement's clauses about dropped accesses. -/
theorem witness_DroppedAccesses :
    DroppedRequest (queued (flying 0 []) [.hostWrite 32 0x00C 1]) ∧
    DroppedRequest (queued (flying 0 []) [.hostWrite 32 0x008 1]) ∧
    DroppedWindowAccess (queued (flying 0 []) [.hostRead 32 0x1000]) ∧
    DroppedWindowAccess (queued (flying 0 []) [.hostWrite 32 0x103C 1]) :=
  ⟨⟨rfl, 1, [], .inl rfl⟩, ⟨rfl, 1, [], .inr ⟨by decide, rfl⟩⟩,
    ⟨rfl, 0x1000, [], ⟨by decide, by decide⟩, by decide, .inl rfl⟩, ⟨rfl, 0x103C, [], ⟨by decide, by decide⟩, by decide,
      .inr ⟨1, rfl⟩⟩⟩

/-- The first word of the first register and the last word of the last are offsets of the window. -/
theorem witness_WindowWordsAreBigEndianSlices :
    (regs []).busy = false ∧ 1 < Config.ref64.words ∧
    (BitVec.ofNat 14 (0x1000 + (0 : Reg).val * (Config.ref64.wbits / 8) + 4 * 0)) = 0x1000#14 ∧
    (BitVec.ofNat 14 (0x1000 + (7 : Reg).val * (Config.ref64.wbits / 8) + 4 * 1)) = 0x103C#14 := by decide

theorem witness_WindowAccessesWhileBusyAreDropped :
    (flying 0 []).busy = true ∧ InWindow Config.ref64 0x1000 ∧ InWindow Config.ref64 0x103C ∧
    (0x103C : Offset).toNat % 4 = 0 := by
  refine ⟨rfl, ?_, ?_, by decide⟩ <;> simp [InWindow, Config.ref64, Config.Params.wbits]

theorem witness_PlatformAddressesNameOffsets : ∃ addr : Nat, Config.mexpBase + 0x4000 ≤ addr :=
  ⟨Config.mexpBase + 0x4000, Nat.le_refl _⟩

end Sys2Proof.Tests
end

section
/-! PROOFS. The platform addresses of MEXP1 (00_scope.md R12, 20_memory.md R49). -/

namespace Sys2Proof.Machine

open Sys2Proof

/-- An offset has 14 bits, so `MEXP_BASE + off` stays inside the 16 KiB region. -/
@[simp] theorem offsetOfAddress_mexpBase_add (off : Offset) :
    offsetOfAddress (Config.mexpBase + off.toNat) = some off := by
  have inRegion : Config.mexpBase ≤ Config.mexpBase + off.toNat ∧
      Config.mexpBase + off.toNat < Config.mexpBase + 0x4000 := by
    have := off.isLt
    omega
  rw [offsetOfAddress, if_pos inRegion, Nat.add_sub_cancel_left, BitVec.ofNat_toNat, BitVec.setWidth_eq]

theorem offsetOfAddress_eq_none_iff {addr : Nat} :
    offsetOfAddress addr = none ↔ addr < Config.mexpBase ∨ Config.mexpBase + 0x4000 ≤ addr := by
  rw [offsetOfAddress, ite_eq_right_iff]
  simp only [reduceCtorEq, imp_false]
  omega

/-- Settles O58, from what `offsetOfAddress` answers inside the region and outside it. -/
theorem platformAddressesNameOffsets : Obligations.PlatformAddressesNameOffsets :=
  ⟨offsetOfAddress_mexpBase_add, fun _ outside => offsetOfAddress_eq_none_iff.mpr outside⟩

end Sys2Proof.Machine
end

section
/-! PROOFS. What an access and a turn of the engine do to the machine, and everything one step can do. -/

namespace Sys2Proof.Machine

open Sys2Proof

/-! ## The turn of the engine -/

theorem EngineNext.eq_tail {s : State} {rest : List Event} (h : EngineNext s rest) :
    s.schedule.tail = rest := by
  obtain hs | ⟨hs, rfl⟩ := h <;> simp [hs]

theorem step_of_engineNext {s : State} {rest : List Event} (h : EngineNext s rest) :
    step s = State.engineTurn { s with schedule := rest } := by
  obtain hs | ⟨hs, rfl⟩ := h
  · exact step_of_cons hs
  · rw [step_of_nil hs, ← hs]

theorem step_of_engineNext_of_idle {s : State} {rest : List Event} (next : EngineNext s rest)
    (idle : s.busy = false) : step s = .next { s with schedule := rest } :=
  (step_of_engineNext next).trans (State.engineTurn_of_idle idle)

theorem step_of_engineNext_of_busy {s : State} {rest : List Event} (next : EngineNext s rest)
    (busy : s.busy = true) : step s = State.completeCommand { s with schedule := rest } :=
  (step_of_engineNext next).trans (State.engineTurn_of_busy busy)

theorem State.completeCommand_of_decode {s : State} {i : Instr} (h : decode s.lastCmd = .ok i) :
    s.completeCommand = exec i s := by
  simp only [State.completeCommand, h]

theorem State.completeCommand_of_reserved {s : State} {e : DecodeError} (h : decode s.lastCmd = .error e) :
    s.completeCommand = .next (s.commit (.err .illegalOpcode)) := by
  cases e
  simp only [State.completeCommand, h, complete]

/-- The answer of a command rule does not depend on the events to come. -/
theorem exec_eq_commit_of_schedule (i : Instr) (s : State) (rest : List Event) :
    ∃ r, exec i s = .next (s.commit r) ∧
      exec i { s with schedule := rest } = .next (State.commit { s with schedule := rest } r) := by
  cases i <;> exact ⟨_, rfl, rfl⟩

/-- So a completion is the same commit whatever is scheduled after it. -/
theorem State.completeCommand_eq_commit_of_schedule (s : State) (rest : List Event) :
    ∃ r, s.completeCommand = .next (s.commit r) ∧
      State.completeCommand { s with schedule := rest } = .next { s.commit r with schedule := rest } := by
  have commit_schedule (r : Result) :
      State.commit { s with schedule := rest } r = { s.commit r with schedule := rest } := by
    cases r <;> rfl
  simp only [← commit_schedule]
  cases hd : decode s.lastCmd with
  | ok i =>
    rw [completeCommand_of_decode hd, completeCommand_of_decode (s := { s with schedule := rest }) hd]
    exact exec_eq_commit_of_schedule i s rest
  | error e =>
    exact ⟨_, completeCommand_of_reserved hd,
      completeCommand_of_reserved (s := { s with schedule := rest }) hd⟩

/-! ## Accesses of CSRs and of the window -/

/-- The offset of a CSR, in the table of 10_state.md R23. -/
def Csr.offset (c : Csr) : Offset :=
  match c with
  | .id => 0x000
  | .hwcfg => 0x004
  | .ctrl => 0x008
  | .cmd => 0x00C
  | .status => 0x010
  | .intrState => 0x014
  | .intrEnable => 0x018
  | .hosterr => 0x01C
  | .lastcmd => 0x020
  | .mrRounds => 0x024

theorem csrAt_eq_some_iff {off : Offset} {c : Csr} : csrAt off.toNat = some c ↔ off = c.offset := by
  constructor
  · intro h
    rw [offset_of_csrAt h]
    cases c <;> rfl
  · rintro rfl
    cases c <;> rfl

@[simp] theorem accessTarget_csr (p : Config.Params) (c : Csr) :
    accessTarget p 32 c.offset = some (.csr c) := by
  cases c <;> rfl

theorem accessTarget_of_inWindow {p : Config.Params} {off : Offset} (aligned : off.toNat % 4 = 0)
    (h : InWindow p off) : ∃ i j, accessTarget p 32 off = some (.window i j) := by
  have notCsr : csrAt off.toNat = none := csrAt_eq_none (Nat.le_trans (by decide) h.1)
  have inRange : 0x1000 ≤ off.toNat ∧ off.toNat < 0x1000 + p.wbits := h
  exact ⟨_, _, by simp only [accessTarget, aligned, notCsr, windowAt, inRange, and_self, if_true]; rfl⟩

/-- A legal access reaches something: it gets no bus error (60_exceptions.md R109). -/
theorem accessTarget_of_legalAccess {p : Config.Params} {width : Nat} {off : Offset}
    (h : LegalAccess p width off) : ∃ a, accessTarget p width off = some a := by
  obtain ⟨rfl, aligned, low | inWindow⟩ := h
  · obtain ⟨c, hc⟩ := csrAt_isSome low aligned
    rw [csrAt_eq_some_iff.mp hc]
    exact ⟨_, accessTarget_csr p c⟩
  · obtain ⟨i, j, hij⟩ := accessTarget_of_inWindow aligned inWindow
    exact ⟨_, hij⟩

theorem step_csrRead {s : State} {rest : List Event} (c : Csr)
    (hs : s.schedule = .hostRead 32 c.offset :: rest) :
    step s = .next { s with schedule := rest, replies := .data (s.readCsr c) :: s.replies } := by
  rw [step_of_cons hs]
  simp only [State.runEvent, State.hostRead, accessTarget_csr]
  cases c <;> rfl

theorem step_csrWrite {s : State} {w : Word} {rest : List Event} (c : Csr)
    (hs : s.schedule = .hostWrite 32 c.offset w :: rest) :
    step s = .next ((State.writeCsr { s with schedule := rest } c w).answer .written) := by
  rw [step_of_cons hs]
  simp only [State.runEvent, State.hostWrite, accessTarget_csr]

section
variable {s : State} {w : Word} {rest : List Event}

/-- An acceptance (10_state.md R44). -/
theorem step_cmdWrite_of_idle (hs : s.schedule = .hostWrite 32 0x00C w :: rest) (idle : s.busy = false) :
    step s = .next { s.accept w with schedule := rest, replies := .written :: s.replies } := by
  rw [step_csrWrite .cmd hs]
  simp only [State.writeCsr, State.writeCmd, if_neg (Bool.not_eq_true _ ▸ idle)]
  rfl

theorem step_cmdWrite_of_busy (hs : s.schedule = .hostWrite 32 0x00C w :: rest) (busy : s.busy = true) :
    step s = .next { s.noteOverrun with schedule := rest, replies := .written :: s.replies } := by
  rw [step_csrWrite .cmd hs]
  simp only [State.writeCsr, State.writeCmd, if_pos busy]
  rfl

/-- A soft reset that is granted (70_reset_and_hazards.md R125). -/
theorem step_ctrlWrite_of_idle (hs : s.schedule = .hostWrite 32 0x008 w :: rest) (srst : w.getLsbD 0 = true)
    (idle : s.busy = false) :
    step s = .next { s.hardReset with schedule := rest, replies := .written :: s.replies } := by
  rw [step_csrWrite .ctrl hs]
  simp only [State.writeCsr, State.writeCtrl, if_pos srst, if_neg (Bool.not_eq_true _ ▸ idle)]
  rfl

theorem step_ctrlWrite_of_busy (hs : s.schedule = .hostWrite 32 0x008 w :: rest) (srst : w.getLsbD 0 = true)
    (busy : s.busy = true) :
    step s = .next { s.noteOverrun with schedule := rest, replies := .written :: s.replies } := by
  rw [step_csrWrite .ctrl hs]
  simp only [State.writeCsr, State.writeCtrl, if_pos srst, if_pos busy]
  rfl

end

/-! ## Everything one step can do -/

/-- What a step makes of the state, its cause with it; the schedule and the replies aside. -/
inductive Effect (s : State) : State → Prop
  /-- An idle turn, a read that is not dropped, or a write that is ignored. -/
  | none : Effect s s
  | completion {u : State} (rest : List Event) (busy : s.busy = true) (next : EngineNext s rest)
      (answer : s.completeCommand = .next u) : Effect s u
  | acceptance (w : Word) (rest : List Event) (idle : s.busy = false)
      (next : s.schedule = .hostWrite 32 0x00C w :: rest) : Effect s (s.accept w)
  | reset (next : ResetNext s) : Effect s s.hardReset
  | droppedRequest (next : DroppedRequest s) : Effect s s.noteOverrun
  | droppedWindowAccess (next : DroppedWindowAccess s) : Effect s s.noteBusyAccess
  | intrStateWrite (w : Word) (rest : List Event) (next : s.schedule = .hostWrite 32 0x014 w :: rest) :
      Effect s (s.writeIntrState w)
  | intrEnableWrite (w : Word) (rest : List Event) (next : s.schedule = .hostWrite 32 0x018 w :: rest) :
      Effect s (s.writeIntrEnable w)
  | hosterrWrite (w : Word) (rest : List Event) (next : s.schedule = .hostWrite 32 0x01C w :: rest) :
      Effect s (s.writeHosterr w)
  | windowWrite (i : Reg) (j : Nat) (w : Word) (idle : s.busy = false) (word : j < s.params.words) :
      Effect s (s.setReg i (replaceWord s.params (s.reg i) j w))

/-- A write that reaches a CSR is one effect. -/
theorem effect_of_csrWrite {s : State} {w : Word} {rest : List Event} {c : Csr}
    (hs : s.schedule = .hostWrite 32 c.offset w :: rest) :
    ∃ u, Effect s u ∧ State.writeCsr { s with schedule := rest } c w = { u with schedule := rest } := by
  rcases State.writeCsr_cases { s with schedule := rest } c w with
    ⟨-, h⟩ | ⟨rfl, idle, h⟩ | ⟨rfl, srst, idle, h⟩ | ⟨request, busy, h⟩ | ⟨rfl, h⟩ | ⟨rfl, h⟩ | ⟨rfl, h⟩
  · exact ⟨_, .none, h⟩
  · exact ⟨_, .acceptance w rest idle hs, h⟩
  · exact ⟨_, .reset (.inr ⟨idle, w, rest, srst, hs⟩), h⟩
  · refine ⟨_, .droppedRequest ⟨busy, w, rest, ?_⟩, h⟩
    obtain rfl | ⟨rfl, srst⟩ := request
    · exact .inl hs
    · exact .inr ⟨srst, hs⟩
  · exact ⟨_, .intrStateWrite w rest hs, h⟩
  · exact ⟨_, .intrEnableWrite w rest hs, h⟩
  · exact ⟨_, .hosterrWrite w rest hs, h⟩

/-- Every step is one effect, takes its event off the schedule, and may answer the host. -/
theorem step_effect {s t : State} (h : step s = .next t) :
    ∃ u replies, Effect s u ∧ t = { u with schedule := s.schedule.tail, replies := replies } := by
  have engine {rest : List Event} (next : EngineNext s rest) :
      ∃ u replies, Effect s u ∧ t = { u with schedule := s.schedule.tail, replies := replies } := by
    rw [next.eq_tail]
    cases hb : s.busy
    · rw [step_of_engineNext_of_idle next hb] at h
      cases h
      exact ⟨s, s.replies, .none, rfl⟩
    · obtain ⟨r, answer, hr⟩ := s.completeCommand_eq_commit_of_schedule rest
      rw [step_of_engineNext_of_busy next hb, hr] at h
      cases h
      exact ⟨_, (s.commit r).replies, .completion rest hb next answer, rfl⟩
  rcases step_cases h with ⟨hs, -⟩ | ⟨rest, hs, -⟩ | ⟨width, off, rest, hs, access⟩ |
    ⟨width, off, w, rest, hs, access⟩ | ⟨rest, hs, rfl⟩
  · exact engine (.inr ⟨hs, rfl⟩)
  · exact engine (.inl hs)
  · rw [hs]
    rcases State.hostRead_cases access with ⟨c, -, rfl⟩ | ⟨i, j, target, busy, rfl⟩ | ⟨i, j, -, -, rfl⟩
    · exact ⟨s, _, .none, rfl⟩
    · obtain ⟨rfl, aligned, inWindow, -⟩ := accessTarget_eq_window target
      exact ⟨_, _, .droppedWindowAccess ⟨busy, off, rest, inWindow, aligned, .inl hs⟩, rfl⟩
    · exact ⟨s, _, .none, rfl⟩
  · rw [hs]
    rcases State.hostWrite_cases access with ⟨c, target, rfl⟩ | ⟨i, j, target, busy, rfl⟩ |
      ⟨i, j, target, idle, rfl⟩
    · obtain ⟨rfl, hc⟩ := accessTarget_eq_csr target
      obtain rfl := csrAt_eq_some_iff.mp hc
      obtain ⟨u, effect, hu⟩ := effect_of_csrWrite hs
      exact ⟨u, _, effect, by rw [hu]; rfl⟩
    · obtain ⟨rfl, aligned, inWindow, -⟩ := accessTarget_eq_window target
      exact ⟨_, _, .droppedWindowAccess ⟨busy, off, rest, inWindow, aligned, .inr ⟨w, hs⟩⟩, rfl⟩
    · obtain ⟨-, -, -, word⟩ := accessTarget_eq_window target
      exact ⟨_, _, .windowWrite i j w idle word, rfl⟩
  · rw [hs]
    exact ⟨_, _, .reset (.inl ⟨rest, hs⟩), rfl⟩

end Sys2Proof.Machine
end

section
/-! PROOFS. What the answer of a command rule may write: its destinations only, values that fit a register, and a
round count that the immediate bounds. -/

namespace Sys2Proof.Machine

open Sys2Proof

/-! ## Bounds of the arithmetic -/

theorem immFits_iff {imm : Nat} : immFits imm = true ↔ imm ≤ 16383 := by simp [immFits]

/-- 16383 and every other small number fits an operand register of any legal width (00_scope.md R9). -/
theorem lt_two_pow_wbits_of_le (p : Config.Params) {v : Nat} (h : v ≤ 16383) : v < 2 ^ p.wbits := by
  have width : 64 ≤ p.wbits := by have := p.atLeast; simp only [Config.Params.wbits]; omega
  calc v < 2 ^ 64 := by omega
    _ ≤ 2 ^ p.wbits := Nat.pow_le_pow_right (by decide) width

theorem powMod_lt (a e : Nat) {m : Nat} (h : m ≠ 0) : powMod a e m < m := by
  rw [powMod_eq]; exact Nat.mod_lt _ (by omega)

theorem squareTimes_mod_lt (k v : Nat) {m : Nat} (h : m ≠ 0) : squareTimes m k (v % m) < m := by
  rw [squareTimes_eq]; exact Nat.mod_lt _ (by omega)

/-- Neither part of the decomposition exceeds the number (42_primality.md R92). -/
theorem decompose_le {n : Nat} (h : 2 ≤ n) : (decompose n).1 ≤ n ∧ (decompose n).2 ≤ n := by
  obtain ⟨k, r, hd, split, odd⟩ := stripTwos_spec 0 (by omega : 0 < n - 1) (lt_two_pow_bitLength (n - 1))
  have hk : k < 2 ^ k := Nat.lt_two_pow_self
  have exponent : 2 ^ k ≤ 2 ^ k * r := Nat.le_mul_of_pos_right _ (by omega)
  have oddPart : r ≤ 2 ^ k * r := Nat.le_mul_of_pos_left _ (by positivity)
  rw [decompose, hd]
  constructor <;> simp only <;> omega

theorem verdict_le_one (b : Bool) : verdict b ≤ 1 := by cases b <;> decide

theorem mrRoundsLoop_rounds_le (p : Config.Params) (n k rounds : Nat) (st : Config.RngState) :
    (mrRoundsLoop p n k rounds st).2.1 ≤ rounds + k := by
  induction k generalizing rounds st with
  | zero => exact Nat.le_refl rounds
  | succ k ih =>
    rw [mrRoundsLoop]
    split
    · have := ih (rounds + 1) (Config.rngDraw p st n).2
      omega
    · simp only; omega

/-- The test makes at most `k` rounds, and none in a short-circuit (R97). -/
theorem isPrime_rounds_le (p : Config.Params) (n k : Nat) (st : Config.RngState) :
    (isPrime p n k st).2.1 ≤ k := by
  have rounds : (mrRoundsLoop p n k 0 st).2.1 ≤ k := by simpa using mrRoundsLoop_rounds_le p n k 0 st
  unfold isPrime
  split_ifs <;> simp [rounds]

/-! ## Destinations and the random context -/

/-- An answer writes only destinations of the command, and a new random context only where the command's rule
may change it (10_state.md R20, R41). -/
def Result.Respects (i : Instr) (s : State) (r : Result) : Prop :=
  match r with
  | .ok writes _ _ rng => (∀ w ∈ writes, w.1 ∈ destinations i) ∧ (usesRandomContext i = false → rng = s.rng)
  | .err _ => True

theorem withModulus_induction {P : Result → Prop} {s : State} {rm : Reg} {f : Nat → Result}
    (zero : P (.err .modZero)) (nonzero : s.reg rm ≠ 0 → P (f (s.reg rm))) : P (withModulus s rm f) := by
  by_cases h : s.reg rm = 0
  · rw [withModulus_of_zero h]; exact zero
  · rw [withModulus_of_ne h]; exact nonzero h

theorem State.okWrite_respects {i : Instr} (s : State) {rd : Reg} (v : Nat) (h : rd ∈ destinations i) :
    (s.okWrite rd v).Respects i s :=
  ⟨by simpa using h, fun _ => rfl⟩

theorem withModulus_respects {i : Instr} (s : State) (rm : Reg) {rd : Reg} (f : Nat → Nat)
    (h : rd ∈ destinations i) : (withModulus s rm fun m => s.okWrite rd (f m)).Respects i s :=
  withModulus_induction trivial fun _ => s.okWrite_respects _ h

theorem exec_respects (i : Instr) (s : State) : ∃ r, exec i s = .next (s.commit r) ∧ r.Respects i s := by
  have mem (rd : Reg) (l : List Reg) : rd ∈ rd :: l := List.mem_cons_self
  cases i with
  | nop => exact ⟨_, rfl, by simp [Result.Respects]⟩
  | mov rd ra => exact ⟨_, rfl, s.okWrite_respects _ (mem rd _)⟩
  | ldi rd imm => exact ⟨_, rfl, s.okWrite_respects _ (mem rd _)⟩
  | modred rd ra rm => exact ⟨_, rfl, withModulus_respects s rm _ (mem rd _)⟩
  | modmul rd ra rb rm => exact ⟨_, rfl, withModulus_respects s rm _ (mem rd _)⟩
  | modsqr rd ra rm => exact ⟨_, rfl, withModulus_respects s rm _ (mem rd _)⟩
  | sqrn rd ra rm k => exact ⟨_, rfl, withModulus_respects s rm _ (mem rd _)⟩
  | powmod rd ra rb rm => exact ⟨_, rfl, withModulus_respects s rm _ (mem rd _)⟩
  | decomp rd rb ra =>
    refine ⟨_, rfl, ?_⟩
    split_ifs <;> simp [Result.Respects, destinations]
  | mrround rd ra rb =>
    refine ⟨_, rfl, ?_⟩
    dsimp only
    split_ifs <;> simp [Result.Respects, destinations]
  | mrtest rd ra k =>
    refine ⟨_, rfl, ?_⟩
    cases s.rng <;> simp [Result.Respects, destinations, usesRandomContext]
  | seed ra =>
    refine ⟨_, rfl, ?_⟩
    cases s.rng <;> simp [Result.Respects, usesRandomContext]
  | unseed =>
    refine ⟨_, rfl, ?_⟩
    cases s.rng <;> simp [Result.Respects, usesRandomContext]

/-- Settles O30: a register that is no destination is named by no write of the answer. -/
theorem commandsWriteOnlyTheirDestinations : Obligations.CommandsWriteOnlyTheirDestinations := by
  intro i s t h
  obtain ⟨r, hr, respects⟩ := exec_respects i s
  cases hr.symm.trans h
  cases r with
  | ok writes _ _ _ =>
    obtain ⟨toDestinations, sameRng⟩ := respects
    refine ⟨fun j hj => getElem_applyWrites_of_not_mem s.x writes j ?_, sameRng⟩
    rintro w hw rfl
    exact hj (toDestinations w hw)
  | err e => exact ⟨fun _ _ => rfl, fun _ => rfl⟩

/-! ## Values and the round count -/

/-- An answer whose values fit the operand registers, with at most 16383 rounds (10_state.md R21, R38). -/
def Result.InRange (p : Config.Params) (r : Result) : Prop :=
  match r with
  | .ok writes _ rounds _ => (∀ w ∈ writes, w.2 < 2 ^ p.wbits) ∧ rounds ≤ 16383
  | .err _ => True

theorem State.okWrite_inRange {s : State} (rd : Reg) {v : Nat} (h : v < 2 ^ s.params.wbits) :
    (s.okWrite rd v).InRange s.params :=
  ⟨by simpa using h, by decide⟩

/-- A residue fits because its modulus, an operand register, does. -/
theorem withModulus_inRange {s : State} (fits : ∀ j : Reg, s.reg j < 2 ^ s.params.wbits) (rd rm : Reg)
    {f : Nat → Nat} (residue : ∀ m, m ≠ 0 → f m < m) :
    (withModulus s rm fun m => s.okWrite rd (f m)).InRange s.params :=
  withModulus_induction trivial fun h => State.okWrite_inRange rd ((residue _ h).trans (fits rm))

theorem exec_inRange {i : Instr} {s : State} (wf : i.WellFormed)
    (fits : ∀ j : Reg, s.reg j < 2 ^ s.params.wbits) :
    ∃ r, exec i s = .next (s.commit r) ∧ r.InRange s.params := by
  have mod_lt (v m : Nat) (h : m ≠ 0) : v % m < m := Nat.mod_lt v (by omega)
  have verdictFits (b : Bool) : verdict b < 2 ^ s.params.wbits :=
    lt_two_pow_wbits_of_le _ ((verdict_le_one b).trans (by decide))
  cases i with
  | nop => exact ⟨_, rfl, by simp [Result.InRange]⟩
  | mov rd ra => exact ⟨_, rfl, State.okWrite_inRange rd (fits ra)⟩
  | ldi rd imm => exact ⟨_, rfl, State.okWrite_inRange rd (lt_two_pow_wbits_of_le _ (immFits_iff.mp wf))⟩
  | modred rd ra rm => exact ⟨_, rfl, withModulus_inRange fits rd rm (mod_lt _)⟩
  | modmul rd ra rb rm => exact ⟨_, rfl, withModulus_inRange fits rd rm (mod_lt _)⟩
  | modsqr rd ra rm => exact ⟨_, rfl, withModulus_inRange fits rd rm (mod_lt _)⟩
  | sqrn rd ra rm k => exact ⟨_, rfl, withModulus_inRange fits rd rm fun _ => squareTimes_mod_lt k _⟩
  | powmod rd ra rb rm => exact ⟨_, rfl, withModulus_inRange fits rd rm fun _ => powMod_lt _ _⟩
  | decomp rd rb ra =>
    refine ⟨_, rfl, ?_⟩
    split_ifs with same small
    · trivial
    · trivial
    · obtain ⟨exponent, oddPart⟩ := decompose_le (Nat.le_of_not_lt small)
      have := fits ra
      simp only [Result.InRange, List.forall_mem_cons]
      exact ⟨⟨by omega, by omega, by simp⟩, by decide⟩
  | mrround rd ra rb =>
    refine ⟨_, rfl, ?_⟩
    dsimp only
    split_ifs
    · trivial
    · exact ⟨by simpa using verdictFits _, by decide⟩
  | mrtest rd ra k =>
    refine ⟨_, rfl, ?_⟩
    cases s.rng with
    | none => trivial
    | some st =>
      exact ⟨by simpa using verdictFits _, (isPrime_rounds_le _ _ k st).trans (immFits_iff.mp wf)⟩
  | seed ra =>
    refine ⟨_, rfl, ?_⟩
    cases s.rng <;> simp [Result.InRange]
  | unseed =>
    refine ⟨_, rfl, ?_⟩
    cases s.rng <;> simp [Result.InRange]

theorem getElem_writeReg_lt {x : Vector Nat 8} {b v : Nat} (hx : ∀ j : Reg, x[j] < b) (hv : v < b)
    (i j : Reg) : (writeReg x i v)[j] < b := by
  rw [getElem_writeReg]
  split
  · exact hv
  · exact hx j

theorem getElem_applyWrites_lt {x : Vector Nat 8} {b : Nat} {ws : List (Reg × Nat)}
    (hx : ∀ j : Reg, x[j] < b) (hw : ∀ w ∈ ws, w.2 < b) (j : Reg) : (applyWrites x ws)[j] < b := by
  induction ws generalizing x with
  | nil => exact hx j
  | cons w ws ih =>
    obtain ⟨first, later⟩ := List.forall_mem_cons.mp hw
    exact ih (getElem_writeReg_lt hx first w.1) later

theorem State.commit_regsFit {s : State} {r : Result} (fits : ∀ j : Reg, s.reg j < 2 ^ s.params.wbits)
    (inRange : r.InRange s.params) (j : Reg) : (s.commit r).reg j < 2 ^ s.params.wbits := by
  cases r with
  | ok writes _ _ _ => exact getElem_applyWrites_lt fits inRange.1 j
  | err e => exact fits j

/-- Settles O32, from the range of every answer. -/
theorem commandResultsFitTheRegisters : Obligations.CommandResultsFitTheRegisters := by
  intro i s t wf fits h j
  obtain ⟨r, hr, inRange⟩ := exec_inRange wf fits
  cases hr.symm.trans h
  rw [State.commit_params]
  exact State.commit_regsFit fits inRange j

end Sys2Proof.Machine
end

section
/-! PROOFS. The invariant of the machine: kept by every step, and met by every reset state. -/

namespace Sys2Proof.Machine

open Sys2Proof

/-- The report of a command: what STATUS shows but the random context, and MR_ROUNDS (10_state.md R28, R38). -/
def State.report (s : State) : Bool × Bool × Bool × Bool × BitVec 4 × Word :=
  (s.busy, s.done, s.err, s.z, s.errcode, s.mrRounds)

/-- The invariant speaks of the report and of the size of the registers only. -/
theorem State.Inv.of_report_eq {s t : State} (h : s.Inv) (report : t.report = s.report)
    (fits : ∀ i : Reg, t.reg i < 2 ^ t.params.wbits) : t.Inv := by
  obtain ⟨-, oneReport, busyClear, codeKnown, codeIffErr, zOfSuccess, roundsOfSuccess, roundsBound⟩ := h
  simp only [State.report, Prod.mk.injEq] at report
  obtain ⟨busy, done, err, z, errcode, mrRounds⟩ := report
  refine ⟨fits, ?_, ?_, ?_, ?_, ?_, ?_, ?_⟩ <;>
    simp only [busy, done, err, z, errcode, mrRounds] <;> assumption

/-! ## Reset, acceptance and completion -/

/-- Settles O35: every register is 0 and no command has reported. -/
theorem resetStatesAreConsistent : Obligations.ResetStatesAreConsistent := by
  intro p
  have fits (i : Reg) : (State.resetWith p).reg i < 2 ^ p.wbits := by
    simp [State.reg, State.resetWith]
  refine ⟨fits, ?_, ?_, ?_, ?_, ?_, ?_, ?_⟩ <;> simp [State.resetWith]

theorem State.Inv.accept {s : State} (h : s.Inv) (w : Word) : (s.accept w).Inv := by
  have fits : ∀ i : Reg, (s.accept w).reg i < 2 ^ s.params.wbits := h.regsFit
  constructor <;> simp [fits]

theorem CmdError.code_known (e : CmdError) : e.code.toNat ≤ 6 := by cases e <;> decide

theorem CmdError.code_ne_zero (e : CmdError) : e.code ≠ 0 := by cases e <;> decide

/-- A command in flight has reported nothing yet, so its completion makes the whole report. -/
theorem State.Inv.commit {s : State} (h : s.Inv) (busy : s.busy = true) {r : Result}
    (inRange : r.InRange s.params) : (s.commit r).Inv := by
  obtain ⟨done, err, z, errcode, mrRounds⟩ := h.busyClear busy
  have fits := State.commit_regsFit h.regsFit inRange
  cases r with
  | ok writes zval rounds rng =>
    have bound : rounds % 2 ^ 32 ≤ 16383 := (Nat.mod_le _ _).trans inRange.2
    constructor <;> simp_all
  | err e =>
    have known := e.code_known
    have nonzero := e.code_ne_zero
    constructor <;> simp_all

/-- The immediate of a decoded command is 14 bits of its word (30_encoding.md R68). -/
theorem wellFormed_of_decode {w : Word} {i : Instr} (h : decode w = .ok i) : i.WellFormed := by
  have imm : immFits (slice w.toNat 13 0) = true := immFits_iff.mpr (by have := slice_lt w.toNat 13 0; omega)
  simp only [decode, decodeFields] at h
  split at h <;> cases h <;> simp [Instr.WellFormed, Instr.wellFormed, imm]

theorem State.Inv.completeCommand {s t : State} (h : s.Inv) (busy : s.busy = true)
    (answer : s.completeCommand = .next t) : t.Inv := by
  cases hd : decode s.lastCmd with
  | ok i =>
    rw [State.completeCommand_of_decode hd] at answer
    obtain ⟨r, hr, inRange⟩ := exec_inRange (wellFormed_of_decode hd) h.regsFit
    cases hr.symm.trans answer
    exact h.commit busy inRange
  | error e =>
    cases (State.completeCommand_of_reserved hd).symm.trans answer
    exact h.commit busy (r := .err .illegalOpcode) trivial

/-! ## Window writes -/

/-- A bus word is put into a register without leaving the register's width (20_memory.md R51). -/
theorem replaceWord_lt (p : Config.Params) {v j : Nat} (w : Word) (hj : j < p.words)
    (hv : v < 2 ^ p.wbits) : replaceWord p v j w < 2 ^ p.wbits := by
  generalize hk : wordShift p j = k
  obtain ⟨a, width⟩ : ∃ a, p.wbits = (k + 32) + a :=
    Nat.exists_eq_add_of_le (by simp only [wordShift, Config.Params.wbits] at *; omega)
  have high : v / 2 ^ (k + 32) < 2 ^ a := by
    rw [Nat.div_lt_iff_lt_mul (by positivity), ← pow_add, Nat.add_comm a]
    exact width ▸ hv
  have low : w.toNat * 2 ^ k + v % 2 ^ k < 2 ^ (k + 32) :=
    calc w.toNat * 2 ^ k + v % 2 ^ k < w.toNat * 2 ^ k + 2 ^ k :=
          Nat.add_lt_add_left (Nat.mod_lt _ (by positivity)) _
      _ = (w.toNat + 1) * 2 ^ k := by ring
      _ ≤ 2 ^ 32 * 2 ^ k := Nat.mul_le_mul_right _ w.isLt
      _ = 2 ^ (k + 32) := by ring
  calc replaceWord p v j w
      = v / 2 ^ (k + 32) * 2 ^ (k + 32) + (w.toNat * 2 ^ k + v % 2 ^ k) := by
        rw [replaceWord, hk, Nat.add_assoc]
    _ < v / 2 ^ (k + 32) * 2 ^ (k + 32) + 2 ^ (k + 32) := Nat.add_lt_add_left low _
    _ = (v / 2 ^ (k + 32) + 1) * 2 ^ (k + 32) := by ring
    _ ≤ 2 ^ a * 2 ^ (k + 32) := Nat.mul_le_mul_right _ high
    _ = 2 ^ p.wbits := by rw [width]; ring

/-! ## Every step -/

theorem Effect.inv {s u : State} (effect : Effect s u) (h : s.Inv) : u.Inv := by
  have fits := h.regsFit
  cases effect with
  | none => exact h
  | completion rest busy next answer => exact h.completeCommand busy answer
  | acceptance w => exact h.accept w
  | reset => exact (resetStatesAreConsistent s.params).of_report_eq rfl (resetStatesAreConsistent _).regsFit
  | droppedRequest => exact h.of_report_eq rfl fits
  | droppedWindowAccess => exact h.of_report_eq rfl fits
  | intrStateWrite => exact h.of_report_eq rfl fits
  | intrEnableWrite => exact h.of_report_eq rfl fits
  | hosterrWrite => exact h.of_report_eq rfl fits
  | windowWrite i j w idle word =>
    exact h.of_report_eq rfl (getElem_writeReg_lt fits (replaceWord_lt s.params w word (fits i)) i)

/-- Settles O34: every effect keeps the invariant, which does not speak of the schedule and the replies. -/
theorem everyStepKeepsTheInvariant : Obligations.EveryStepKeepsTheInvariant := by
  intro s t inv h
  obtain ⟨u, replies, effect, rfl⟩ := step_effect h
  exact (effect.inv inv).of_report_eq rfl (effect.inv inv).regsFit

end Sys2Proof.Machine
end

section
/-! PROOFS. The turn of the engine: it runs the command in flight, completes it with one report, and does nothing
while idle; every accepted command completes. -/

namespace Sys2Proof.Machine

open Sys2Proof

/-- Settles O6, from the step of an idle turn. -/
theorem anIdleEngineDoesNothing : Obligations.AnIdleEngineDoesNothing :=
  fun _ _ idle next => step_of_engineNext_of_idle next idle

/-- The word of the fetch interface is the word accepted. -/
theorem State.withFetchWord_toNat (s : State) (w : Word) : s.withFetchWord 32 w.toNat = s.withCommand w := by
  rw [State.withFetchWord, Nat.mod_eq_of_lt w.isLt, BitVec.ofNat_toNat, BitVec.setWidth_eq]

/-- Settles O5: the turn is a completion, and a completion of a decoded word is `exec`. -/
theorem stepRunsTheDecodedCommand : Obligations.StepRunsTheDecodedCommand := by
  intro s w i rest hd
  constructor
  · rintro busy rfl next
    rw [step_of_engineNext_of_busy next busy]
    exact State.completeCommand_of_decode hd
  · have next : EngineNext (s.withCommand w) s.schedule := .inl rfl
    rw [State.withFetchWord_toNat, step_of_engineNext_of_busy next rfl]
    exact State.completeCommand_of_decode hd

theorem State.eq_commit_of_completeCommand {s t : State} (h : s.completeCommand = .next t) :
    ∃ r, t = s.commit r := by
  obtain ⟨r, hr⟩ := s.completeCommand_eq_commit
  exact ⟨r, Host.Outcome.next.inj (h.symm.trans hr)⟩

/-- Settles O33: both flags are 0 before, and a success sets DONE where an error sets ERR. -/
theorem completionSetsExactlyOneOfDoneAndErr : Obligations.CompletionSetsExactlyOneOfDoneAndErr := by
  intro s t rest inv busy next h
  rw [step_of_engineNext_of_busy next busy] at h
  obtain ⟨r, rfl⟩ := State.eq_commit_of_completeCommand h
  obtain ⟨done, err, -⟩ := inv.busyClear busy
  cases r with
  | ok writes zval rounds rng => simp [err]
  | err e => simp [done]

/-! ## Every schedule of legal events runs to its end -/

theorem Effect.params_eq {s u : State} (effect : Effect s u) : u.params = s.params := by
  cases effect with
  | completion rest busy next answer =>
    obtain ⟨r, rfl⟩ := State.eq_commit_of_completeCommand answer
    exact s.commit_params r
  | _ => rfl

/-- Settles O36: no effect changes the configuration. -/
theorem noStepChangesTheConfiguration : Obligations.NoStepChangesTheConfiguration := by
  intro s t h
  obtain ⟨u, replies, effect, rfl⟩ := step_effect h
  exact effect.params_eq

theorem step_schedule {s t : State} (h : step s = .next t) : t.schedule = s.schedule.tail := by
  obtain ⟨u, replies, effect, rfl⟩ := step_effect h
  rfl

theorem State.engineTurn_idles (s : State) : ∃ t, s.engineTurn = .next t ∧ t.busy = false := by
  cases hb : s.busy
  · exact ⟨s, State.engineTurn_of_idle hb, hb⟩
  · obtain ⟨r, hr⟩ := s.completeCommand_eq_commit
    exact ⟨_, (State.engineTurn_of_busy hb).trans hr, s.commit_busy r⟩

/-- Only a bus error stops the machine (60_exceptions.md R109). -/
theorem step_of_legal {s : State} {e : Event} {rest : List Event} (hs : s.schedule = e :: rest)
    (legal : e.Legal s.params) : ∃ t, step s = .next t := by
  rw [step_of_cons hs]
  cases e with
  | hostRead width off =>
    obtain ⟨a, ha⟩ := accessTarget_of_legalAccess legal
    simp only [State.runEvent, State.hostRead, ha]
    cases a with
    | csr c => exact ⟨_, rfl⟩
    | window i j => cases s.busy <;> exact ⟨_, rfl⟩
  | hostWrite width off w =>
    obtain ⟨a, ha⟩ := accessTarget_of_legalAccess legal
    simp only [State.runEvent, State.hostWrite, ha]
    cases a with
    | csr c => exact ⟨_, rfl⟩
    | window i j => cases s.busy <;> exact ⟨_, rfl⟩
  | engine =>
    obtain ⟨t, ht, -⟩ := State.engineTurn_idles { s with schedule := rest }
    exact ⟨t, ht⟩
  | hardReset => exact ⟨_, rfl⟩

/-- Settles O7, by induction on the scheduled events: each is one step, and the engine has the turn after the last. -/
theorem everyAcceptedCommandCompletes : Obligations.EveryAcceptedCommandCompletes := by
  intro s legal
  induction hs : s.schedule generalizing s with
  | nil =>
    obtain ⟨t, ht, idle⟩ := s.engineTurn_idles
    have hstep : step s = .next t := (step_of_nil hs).trans ht
    refine ⟨t, ?_, idle, by simpa [hs] using step_schedule hstep⟩
    simp [runSteps, hstep]
  | cons e rest ih =>
    obtain ⟨u, hu⟩ := step_of_legal hs (legal e (by simp [hs]))
    have later : u.schedule = rest := by simpa [hs] using step_schedule hu
    have params := noStepChangesTheConfiguration s u hu
    obtain ⟨t, ht, done⟩ := ih u (fun e' he' => params ▸ legal e' (by simp_all)) later
    exact ⟨t, by simpa [runSteps, hu] using ht, done⟩

end Sys2Proof.Machine
end

section
/-! PROOFS. What a step may change, and by which cause: BUSY, LASTCMD, the random context, the pending bits and
HOSTERR; and what a host access leaves alone while a command is in flight. -/

namespace Sys2Proof.Machine

open Sys2Proof

/-! ## The step of a given cause -/

theorem step_of_resetNext {s : State} (h : ResetNext s) :
    ∃ replies, step s = .next { s.hardReset with schedule := s.schedule.tail, replies := replies } := by
  obtain ⟨rest, hs⟩ | ⟨idle, w, rest, srst, hs⟩ := h
  · exact ⟨s.replies, by rw [step_of_cons hs, hs]; rfl⟩
  · exact ⟨_, by rw [step_ctrlWrite_of_idle hs srst idle, hs]; rfl⟩

theorem step_of_droppedRequest {s : State} (h : DroppedRequest s) :
    ∃ replies, step s = .next { s.noteOverrun with schedule := s.schedule.tail, replies := replies } := by
  obtain ⟨busy, w, rest, hs | ⟨srst, hs⟩⟩ := h
  · exact ⟨_, by rw [step_cmdWrite_of_busy hs busy, hs]; rfl⟩
  · exact ⟨_, by rw [step_ctrlWrite_of_busy hs srst busy, hs]; rfl⟩

theorem step_of_droppedWindowAccess {s : State} (h : DroppedWindowAccess s) :
    ∃ replies, step s = .next { s.noteBusyAccess with schedule := s.schedule.tail, replies := replies } := by
  obtain ⟨busy, off, rest, inWindow, aligned, hs⟩ := h
  obtain ⟨i, j, target⟩ := accessTarget_of_inWindow aligned inWindow
  obtain hs | ⟨w, hs⟩ := hs <;> rw [step_of_cons hs, hs]
  · simp only [State.runEvent, State.hostRead, target, if_pos busy]
    exact ⟨_, rfl⟩
  · simp only [State.runEvent, State.hostWrite, target, if_pos busy]
    exact ⟨_, rfl⟩

/-! ## BUSY, LASTCMD and the random context -/

/-- Settles O37: of the effects only an acceptance sets BUSY, and only a completion and a reset clear it. -/
theorem busyIsSetByAcceptanceAndClearedByCompletion :
    Obligations.BusyIsSetByAcceptanceAndClearedByCompletion := by
  intro s t h
  obtain ⟨u, replies, effect, rfl⟩ := step_effect h
  constructor
  · intro idle rises
    cases effect with
    | acceptance w rest _ next => exact ⟨w, rest, next⟩
    | completion _ busy => simp_all
    | _ => simp_all
  · intro busy falls
    cases effect with
    | completion rest _ next => exact .inl ⟨rest, next⟩
    | reset next =>
      obtain hard | ⟨idle, -⟩ := next
      · exact .inr hard
      · simp_all
    | _ => simp_all

/-- Settles O38: a reset and an acceptance are known steps, and no other effect changes LASTCMD. -/
theorem lastcmdHoldsTheLatestAcceptance : Obligations.LastcmdHoldsTheLatestAcceptance := by
  intro s t h
  refine ⟨fun reset => ?_, fun w rest idle hs => ?_, fun noReset noAcceptance => ?_⟩
  · obtain ⟨replies, hr⟩ := step_of_resetNext reset
    cases hr.symm.trans h
    rfl
  · cases (step_cmdWrite_of_idle hs idle).symm.trans h
    rfl
  · obtain ⟨u, replies, effect, rfl⟩ := step_effect h
    cases effect with
    | acceptance w rest idle next => simp_all
    | reset next => exact absurd next noReset
    | completion rest busy next answer =>
      obtain ⟨r, rfl⟩ := State.eq_commit_of_completeCommand answer
      exact s.commit_lastCmd r
    | _ => rfl

/-- A completion leaves the random context alone unless its command may change it (10_state.md R41). -/
theorem State.completeCommand_rng {s t : State} (h : s.completeCommand = .next t) (changed : t.rng ≠ s.rng) :
    ∃ i, decode s.lastCmd = .ok i ∧ usesRandomContext i = true := by
  cases hd : decode s.lastCmd with
  | ok i =>
    rw [State.completeCommand_of_decode hd] at h
    refine ⟨i, rfl, Bool.of_not_eq_false fun unused => changed ?_⟩
    exact (commandsWriteOnlyTheirDestinations i s t h).2 unused
  | error e =>
    cases (State.completeCommand_of_reserved hd).symm.trans h
    exact absurd rfl changed

/-- Settles O39: only a reset and a completion change the random context. -/
theorem randomContextChangesOnlyByItsCommands : Obligations.RandomContextChangesOnlyByItsCommands := by
  intro s t h changed
  obtain ⟨u, replies, effect, rfl⟩ := step_effect h
  cases effect with
  | reset next => exact .inl ⟨next, rfl⟩
  | completion rest busy next answer =>
    exact .inr ⟨busy, ⟨rest, next⟩, State.completeCommand_rng answer changed⟩
  | _ => exact absurd rfl changed

/-- Settles O40: of the effects on a busy state, only a completion and a hard reset are no host access. -/
theorem noHostAccessDisturbsTheCommandInFlight : Obligations.NoHostAccessDisturbsTheCommandInFlight := by
  intro s t e rest busy hs host h
  obtain ⟨u, replies, effect, rfl⟩ := step_effect h
  cases effect with
  | completion _ _ next =>
    obtain next | ⟨next, -⟩ := next
    · cases hs.symm.trans next
      exact host.elim
    · cases hs.symm.trans next
  | reset next =>
    obtain ⟨_, hard⟩ | ⟨idle, -⟩ := next
    · cases hs.symm.trans hard
      exact host.elim
    · cases busy.symm.trans idle
  | acceptance _ _ idle => cases busy.symm.trans idle
  | windowWrite _ _ _ idle => cases busy.symm.trans idle
  | _ => exact ⟨rfl, rfl, rfl, busy⟩

/-! ## Pending bits and HOSTERR -/

/-- A commit sets INTR_STATE.DONE with DONE and INTR_STATE.ERR with ERR, and clears neither (10_state.md R34). -/
theorem State.commit_pending (s : State) (r : Result) :
    ((s.commit r).intrDone = s.intrDone ∨ (s.commit r).intrDone = true ∧ (s.commit r).done = true) ∧
    ((s.commit r).intrErr = s.intrErr ∨ (s.commit r).intrErr = true ∧ (s.commit r).err = true) := by
  cases r <;> simp

/-- Settles O53: only a completion sets a pending bit, and only a reset and a write of INTR_STATE clear it. -/
theorem pendingBitsAreSetByCompletionsOnly : Obligations.PendingBitsAreSetByCompletionsOnly := by
  intro s t h
  obtain ⟨u, replies, effect, rfl⟩ := step_effect h
  cases effect with
  | completion rest busy next answer =>
    obtain ⟨r, rfl⟩ := State.eq_commit_of_completeCommand answer
    have turn : ∃ rest, EngineNext s rest := ⟨rest, next⟩
    obtain ⟨done, err⟩ := s.commit_pending r
    grind
  | reset next => simp [next]
  | intrStateWrite w rest next =>
    refine ⟨by simp_all, by simp_all, fun pending cleared => ?_, fun pending cleared => ?_⟩
    · exact .inr ⟨w, rest, by simp_all, next⟩
    · exact .inr ⟨w, rest, by simp_all, next⟩
  | _ => simp_all

/-- Everything a step can make of HOSTERR, each with its cause (10_state.md R36). -/
theorem step_hosterr_cases {s t : State} (h : step s = .next t) :
    (t.overrun = s.overrun ∧ t.busyAcc = s.busyAcc) ∨
    (DroppedRequest s ∧ t.overrun = true ∧ t.busyAcc = s.busyAcc) ∨
    (DroppedWindowAccess s ∧ t.overrun = s.overrun ∧ t.busyAcc = true) ∨
    (ResetNext s ∧ t.overrun = false ∧ t.busyAcc = false) ∨
    ∃ w rest, s.schedule = .hostWrite 32 0x01C w :: rest ∧
      t.overrun = (s.overrun && !w.getLsbD 0) ∧ t.busyAcc = (s.busyAcc && !w.getLsbD 1) := by
  obtain ⟨u, replies, effect, rfl⟩ := step_effect h
  cases effect with
  | completion rest busy next answer =>
    obtain ⟨r, rfl⟩ := State.eq_commit_of_completeCommand answer
    exact .inl ⟨s.commit_overrun r, s.commit_busyAcc r⟩
  | droppedRequest next => exact .inr (.inl ⟨next, rfl, rfl⟩)
  | droppedWindowAccess next => exact .inr (.inr (.inl ⟨next, rfl, rfl⟩))
  | reset next => exact .inr (.inr (.inr (.inl ⟨next, rfl, rfl⟩)))
  | hosterrWrite w rest next => exact .inr (.inr (.inr (.inr ⟨w, rest, next, rfl, rfl⟩)))
  | _ => exact .inl ⟨rfl, rfl⟩

theorem hosterr_of_resetNext {s t : State} (h : step s = .next t) (reset : ResetNext s) :
    t.overrun = false ∧ t.busyAcc = false := by
  obtain ⟨replies, hr⟩ := step_of_resetNext reset
  cases hr.symm.trans h
  exact ⟨rfl, rfl⟩

theorem hosterr_of_hosterrWrite {s t : State} {w : Word} {rest : List Event} (h : step s = .next t)
    (hs : s.schedule = .hostWrite 32 0x01C w :: rest) :
    t.overrun = (s.overrun && !w.getLsbD 0) ∧ t.busyAcc = (s.busyAcc && !w.getLsbD 1) := by
  cases (step_csrWrite .hosterr hs).symm.trans h
  exact ⟨rfl, rfl⟩

/-- Settles O55: each cause makes its change, and no step changes a bit without one of the causes. -/
theorem hosterrRecordsDroppedAccesses : Obligations.HosterrRecordsDroppedAccesses := by
  intro s t h
  have causes := step_hosterr_cases h
  refine ⟨fun dropped => ?_, fun clear set => ?_, fun dropped => ?_, fun clear set => ?_,
    fun set => ⟨fun cleared => ?_, ?_⟩, fun set => ⟨fun cleared => ?_, ?_⟩⟩
  · obtain ⟨replies, hr⟩ := step_of_droppedRequest dropped
    cases hr.symm.trans h
    rfl
  · grind
  · obtain ⟨replies, hr⟩ := step_of_droppedWindowAccess dropped
    cases hr.symm.trans h
    rfl
  · grind
  · grind
  · rintro (reset | ⟨w, rest, one, hs⟩)
    · exact (hosterr_of_resetNext h reset).1
    · simp [(hosterr_of_hosterrWrite h hs).1, one]
  · grind
  · rintro (reset | ⟨w, rest, one, hs⟩)
    · exact (hosterr_of_resetNext h reset).2
    · simp [(hosterr_of_hosterrWrite h hs).2, one]

end Sys2Proof.Machine
end

section
/-! PROOFS. The CSRs: the bits of their words, what a read returns and what a write stores; the machine after reset;
and a register after a success. -/

namespace Sys2Proof.Machine

open Sys2Proof

/-! ## Words of two bits: INTR_STATE, INTR_ENABLE and HOSTERR -/

/-- A word whose bits 1 and 0 are given and whose other bits are 0, the form of INTR_STATE, INTR_ENABLE and HOSTERR
(10_state.md R34 to R36, R39). -/
def twoBitWord (one zero : Bool) : Word := 0#30 ++ BitVec.ofBool one ++ BitVec.ofBool zero

theorem State.intrStateWord_eq (s : State) : s.intrStateWord = twoBitWord s.intrErr s.intrDone := rfl

theorem State.intrEnableWord_eq (s : State) : s.intrEnableWord = twoBitWord s.errEn s.doneEn := rfl

theorem State.hosterrWord_eq (s : State) : s.hosterrWord = twoBitWord s.busyAcc s.overrun := rfl

theorem getLsbD_append_ofBool_zero {n : Nat} (v : BitVec n) (b : Bool) :
    (v ++ BitVec.ofBool b).getLsbD 0 = b := BitVec.getLsbD_concat_zero

theorem getLsbD_append_ofBool_succ {n : Nat} (v : BitVec n) (b : Bool) (k : Nat) :
    (v ++ BitVec.ofBool b).getLsbD (k + 1) = v.getLsbD k := BitVec.getLsbD_concat_succ

theorem getLsbD_twoBitWord_zero (a b : Bool) : (twoBitWord a b).getLsbD 0 = b :=
  getLsbD_append_ofBool_zero _ b

theorem getLsbD_twoBitWord_one (a b : Bool) : (twoBitWord a b).getLsbD 1 = a :=
  (getLsbD_append_ofBool_succ _ b 0).trans (getLsbD_append_ofBool_zero _ a)

theorem getLsbD_twoBitWord_of_two_le (a b : Bool) {k : Nat} (h : 2 ≤ k) :
    (twoBitWord a b).getLsbD k = false := by
  obtain ⟨k, rfl⟩ := Nat.exists_eq_add_of_le' h
  rw [twoBitWord, getLsbD_append_ofBool_succ, getLsbD_append_ofBool_succ, BitVec.getLsbD_zero]

theorem eq_twoBitWord {w : Word} {a b : Bool} (zero : w.getLsbD 0 = b) (one : w.getLsbD 1 = a)
    (rest : ∀ k, 2 ≤ k → w.getLsbD k = false) : w = twoBitWord a b := by
  apply BitVec.eq_of_getLsbD_eq
  rintro (_ | _ | k) -
  · rw [zero, getLsbD_twoBitWord_zero]
  · rw [one, getLsbD_twoBitWord_one]
  · rw [rest _ (by omega), getLsbD_twoBitWord_of_two_le _ _ (by omega)]

theorem twoBitWord_and (a b : Bool) (w : Word) :
    twoBitWord a b &&& w = twoBitWord (a && w.getLsbD 1) (b && w.getLsbD 0) := by
  apply eq_twoBitWord
  · rw [BitVec.getLsbD_and, getLsbD_twoBitWord_zero]
  · rw [BitVec.getLsbD_and, getLsbD_twoBitWord_one]
  · intro k hk
    rw [BitVec.getLsbD_and, getLsbD_twoBitWord_of_two_le a b hk, Bool.false_and]

/-- The effect of a write of `w` to write-1-to-clear bits (10_state.md R34, R36). -/
theorem twoBitWord_and_not (a b : Bool) (w : Word) :
    twoBitWord (a && !w.getLsbD 1) (b && !w.getLsbD 0) = twoBitWord a b &&& ~~~w := by
  simp [twoBitWord_and]

theorem twoBitWord_eq_and_three (w : Word) : twoBitWord (w.getLsbD 1) (w.getLsbD 0) = w &&& 3 := by
  have three : (3 : Word) = twoBitWord true true := rfl
  rw [three, BitVec.and_comm, twoBitWord_and, Bool.true_and, Bool.true_and]

/-- Settles O48: each word has the form of `twoBitWord`. -/
theorem interruptAndHosterrWordsHaveTheirBits : Obligations.InterruptAndHosterrWordsHaveTheirBits := by
  intro s
  have zero := getLsbD_twoBitWord_zero
  have one := getLsbD_twoBitWord_one
  have reserved (a b : Bool) (k : Nat) (hk : 2 ≤ k) := getLsbD_twoBitWord_of_two_le a b hk
  rw [State.intrStateWord_eq, State.intrEnableWord_eq, State.hosterrWord_eq]
  exact ⟨zero _ _, one _ _, zero _ _, one _ _, zero _ _, one _ _,
    fun k hk => ⟨reserved _ _ k hk, reserved _ _ k hk, reserved _ _ k hk⟩⟩

/-! ## STATUS and HWCFG -/

/-- Above the five flags STATUS has three reserved bits, ERRCODE, and reserved bits (10_state.md R28). -/
theorem getLsbD_statusWord_add_five (s : State) (k : Nat) :
    s.statusWord.getLsbD (k + 5) =
      if k < 3 then false else if k - 3 < 4 then s.errcode.getLsbD (k - 3) else false := by
  rw [State.statusWord, getLsbD_append_ofBool_succ, getLsbD_append_ofBool_succ, getLsbD_append_ofBool_succ,
    getLsbD_append_ofBool_succ, getLsbD_append_ofBool_succ, BitVec.getLsbD_append, BitVec.getLsbD_append,
    BitVec.getLsbD_zero, BitVec.getLsbD_zero]

/-- Settles O47: the flags are the bits put on last, one after the other. -/
theorem statusWordHasItsBits : Obligations.StatusWordHasItsBits := by
  intro s
  have flag := @getLsbD_append_ofBool_succ
  refine ⟨?_, ?_, ?_, ?_, ?_, fun k low high => ?_, fun k hk => ?_, fun k hk => ?_⟩
  · exact getLsbD_append_ofBool_zero _ s.busy
  · rw [State.statusWord, flag, getLsbD_append_ofBool_zero]
  · rw [State.statusWord, flag, flag, getLsbD_append_ofBool_zero]
  · rw [State.statusWord, flag, flag, flag, getLsbD_append_ofBool_zero]
  · rw [State.statusWord, flag, flag, flag, flag, getLsbD_append_ofBool_zero, State.rngReady]
  · obtain ⟨k, rfl⟩ := Nat.exists_eq_add_of_le' low
    rw [getLsbD_statusWord_add_five, if_pos (by omega)]
  · rw [show 8 + k = (k + 3) + 5 by omega, getLsbD_statusWord_add_five, if_neg (by omega), Nat.add_sub_cancel,
      if_pos hk]
  · obtain ⟨k, rfl⟩ := Nat.exists_eq_add_of_le' hk
    rw [show k + 12 = (k + 7) + 5 by omega, getLsbD_statusWord_add_five, if_neg (by omega), if_neg (by omega)]

/-- HWCFG as the number its fields give (R25); WWORDS does not reach into NREGS. -/
theorem hwcfgWord_eq (p : Config.Params) :
    hwcfgWord p = BitVec.ofNat 32 (p.words + 8 * 2 ^ 16 + 1 * 2 ^ 20) := by
  have words := p.atMost
  have fits : p.words < 2 ^ 16 := by omega
  have fields : (hwcfgWord p).toNat = 0x18 <<< 16 ||| p.words % 2 ^ 16 := rfl
  apply BitVec.eq_of_toNat_eq
  rw [fields, Nat.mod_eq_of_lt fits, ← Nat.shiftLeft_add_eq_or_of_lt fits, BitVec.toNat_ofNat]
  omega

/-- Settles O46: each offset of the table is its CSR's, and each word what `readCsr` gives. -/
theorem csrReadsReturnTheirRegisters : Obligations.CsrReadsReturnTheirRegisters := by
  intro s rest off hs v table
  have read (c : Csr) (hoff : off = c.offset) (hv : v = s.readCsr c) :
      step s = .next { s with schedule := rest, replies := .data v :: s.replies } := by
    subst hoff hv
    exact step_csrRead c hs
  rcases table with ⟨hoff, hv⟩ | ⟨hoff, hv⟩ | ⟨hoff, hv⟩ | ⟨hoff, hv⟩ | ⟨hoff, hv⟩ | ⟨hoff, hv⟩ | ⟨hoff, hv⟩ |
    ⟨hoff, hv⟩ | ⟨hoff, hv⟩ | ⟨hoff, hv⟩
  · exact read .id hoff hv
  · exact read .hwcfg hoff (hv.trans (hwcfgWord_eq s.params).symm)
  · exact read .ctrl hoff hv
  · exact read .cmd hoff hv
  · exact read .status hoff hv
  · exact read .intrState hoff hv
  · exact read .intrEnable hoff hv
  · exact read .hosterr hoff hv
  · exact read .lastcmd hoff hv
  · exact read .mrRounds hoff hv

/-! ## Writes -/

/-- Settles O50: these CSRs take a write as no change. -/
theorem readOnlyCsrsIgnoreWrites : Obligations.ReadOnlyCsrsIgnoreWrites := by
  rintro s w off rest (rfl | rfl | rfl | rfl | rfl) hs
  · exact step_csrWrite .id hs
  · exact step_csrWrite .hwcfg hs
  · exact step_csrWrite .status hs
  · exact step_csrWrite .lastcmd hs
  · exact step_csrWrite .mrRounds hs

/-- Settles O51, from the word of two stored bits. -/
theorem intrEnableReadsBackWhatWasWritten : Obligations.IntrEnableReadsBackWhatWasWritten :=
  fun _ w _ hs => ⟨_, step_csrWrite .intrEnable hs, twoBitWord_eq_and_three w, rfl⟩

/-- Settles O52: both registers have the form of `twoBitWord`. -/
theorem writingOneClearsAStickyBit : Obligations.WritingOneClearsAStickyBit :=
  fun _ w _ =>
    ⟨fun hs => ⟨_, step_csrWrite .intrState hs, twoBitWord_and_not _ _ w, rfl⟩,
     fun hs => ⟨_, step_csrWrite .hosterr hs, twoBitWord_and_not _ _ w, rfl⟩⟩

/-- Settles O44, from the step of a CMD write. -/
theorem acceptanceStartsTheCommandOrNotesTheOverrun : Obligations.AcceptanceStartsTheCommandOrNotesTheOverrun :=
  fun _ _ _ hs => ⟨step_cmdWrite_of_busy hs, step_cmdWrite_of_idle hs⟩

/-! ## Registers and reset -/

/-- Settles O31, from what a register write leaves. -/
theorem aWrittenRegisterHoldsItsValue : Obligations.AWrittenRegisterHoldsItsValue :=
  fun s rd r v => getElem_writeReg s.x rd r v

/-- Settles O41: every field of the reset state is 0, and the words are put together from the fields. -/
theorem resetLeavesEverythingZero : Obligations.ResetLeavesEverythingZero := by
  exact ⟨by decide, rfl, rfl, rfl, rfl, rfl, rfl, rfl, rfl, rfl, rfl, rfl, rfl, rfl⟩

end Sys2Proof.Machine
end

section
/-! PROOFS. Host reads, and the operand window: the word an access reads or stores, bit by bit, and what is dropped
while busy. -/

namespace Sys2Proof.Machine

open Sys2Proof

/-! ## One bus word of a register -/

theorem wordShift_add_word (p : Config.Params) {j : Nat} (hj : j < p.words) :
    wordShift p j + 32 = p.wbits - 32 * j := by
  simp only [wordShift, Config.Params.wbits]
  omega

/-- Taking 32 bits as a bus word already drops the bits above them. -/
theorem wordOf_eq (p : Config.Params) (v j : Nat) : wordOf p v j = BitVec.ofNat 32 (v / 2 ^ wordShift p j) := by
  have width : wordShift p j + 31 - wordShift p j + 1 = 32 := by omega
  apply BitVec.eq_of_toNat_eq
  rw [wordOf, slice, width, BitVec.toNat_ofNat, BitVec.toNat_ofNat, Nat.mod_mod]

/-- The bits of a register after a window write: those of word `j` are the bus word's (20_memory.md R51, R56). -/
theorem testBit_replaceWord (p : Config.Params) (v j : Nat) (w : Word) (b : Nat) :
    (replaceWord p v j w).testBit b =
      if wordShift p j ≤ b ∧ b < wordShift p j + 32 then w.getLsbD (b - wordShift p j) else v.testBit b := by
  rw [replaceWord]
  generalize wordShift p j = k
  have layers : v / 2 ^ (k + 32) * 2 ^ (k + 32) + w.toNat * 2 ^ k + v % 2 ^ k =
      2 ^ k * (2 ^ 32 * (v / 2 ^ (k + 32)) + w.toNat) + v % 2 ^ k := by ring
  rw [layers, Nat.testBit_two_pow_mul_add _ (Nat.mod_lt _ (by positivity)), Nat.testBit_two_pow_mul_add _ w.isLt]
  rcases Nat.lt_or_ge b k with below | atLeast
  · rw [if_pos below, if_neg (by omega), Nat.testBit_mod_two_pow, decide_eq_true below, Bool.true_and]
  · rw [if_neg (by omega)]
    rcases Nat.lt_or_ge b (k + 32) with inside | above
    · rw [if_pos (by omega), if_pos ⟨atLeast, inside⟩, BitVec.testBit_toNat]
    · have position : k + 32 + (b - k - 32) = b := by omega
      rw [if_neg (by omega), if_neg (by omega), Nat.testBit_div_two_pow, Nat.add_comm, position]

/-! ## The step of a window access -/

section
variable {s : State} {off : Offset} {i : Reg} {j : Nat} {w : Word} {rest : List Event}
  (target : accessTarget s.params 32 off = some (.window i j))
include target

theorem step_windowRead_of_idle (hs : s.schedule = .hostRead 32 off :: rest) (idle : s.busy = false) :
    step s = .next
      { s with schedule := rest, replies := .data (wordOf s.params (s.reg i) j) :: s.replies } := by
  rw [step_of_cons hs]
  simp only [State.runEvent, State.hostRead, target, if_neg (Bool.not_eq_true _ ▸ idle)]
  rfl

theorem step_windowRead_of_busy (hs : s.schedule = .hostRead 32 off :: rest) (busy : s.busy = true) :
    step s = .next { s with busyAcc := true, schedule := rest, replies := .data 0 :: s.replies } := by
  rw [step_of_cons hs]
  simp only [State.runEvent, State.hostRead, target, if_pos busy]
  rfl

theorem step_windowWrite_of_idle (hs : s.schedule = .hostWrite 32 off w :: rest) (idle : s.busy = false) :
    step s = .next
      { s.setReg i (replaceWord s.params (s.reg i) j w) with
        schedule := rest, replies := .written :: s.replies } := by
  rw [step_of_cons hs]
  simp only [State.runEvent, State.hostWrite, target, if_neg (Bool.not_eq_true _ ▸ idle)]
  rfl

theorem step_windowWrite_of_busy (hs : s.schedule = .hostWrite 32 off w :: rest) (busy : s.busy = true) :
    step s = .next { s with busyAcc := true, schedule := rest, replies := .written :: s.replies } := by
  rw [step_of_cons hs]
  simp only [State.runEvent, State.hostWrite, target, if_pos busy]
  rfl

end

/-! ## The statements -/

theorem Csr.offset_lt_window (c : Csr) : c.offset.toNat < 0x1000 := by cases c <;> decide

/-- Settles O49: of everything a host read can answer, only a window read while busy notes BUSYACC, and every CSR
lies below the window. -/
theorem hostReadsHaveNoOtherSideEffect : Obligations.HostReadsHaveNoOtherSideEffect := by
  intro s t width off rest hs h
  rw [step_of_cons hs] at h
  rcases State.hostRead_cases h with ⟨c, target, rfl⟩ | ⟨i, j, target, busy, rfl⟩ | ⟨i, j, -, idle, rfl⟩
  · obtain rfl := csrAt_eq_some_iff.mp (accessTarget_eq_csr target).2
    exact ⟨⟨_, rfl⟩, by simp [c.offset_lt_window]⟩
  · obtain ⟨-, -, ⟨window, -⟩, -⟩ := accessTarget_eq_window target
    have busy : s.busy = true := busy
    exact ⟨⟨_, rfl⟩, by simp [busy, window]⟩
  · have idle : s.busy = false := idle
    exact ⟨⟨_, rfl⟩, by simp [idle]⟩

/-- Settles O57: an aligned offset of the window reaches a word of a register, whose access is dropped. -/
theorem windowAccessesWhileBusyAreDropped : Obligations.WindowAccessesWhileBusyAreDropped := by
  intro s off w rest busy inWindow aligned
  obtain ⟨i, j, target⟩ := accessTarget_of_inWindow aligned inWindow
  exact ⟨fun hs => step_windowRead_of_busy target hs busy, fun hs => step_windowWrite_of_busy target hs busy⟩

/-- Settles O56: the offset reaches word `j` of `x[i]`, which a read slices out and a write replaces. -/
theorem windowWordsAreBigEndianSlices : Obligations.WindowWordsAreBigEndianSlices := by
  intro s i j w rest idle hj
  have target := accessTarget_opb s.params i hj
  refine ⟨fun hs => ?_, fun hs => ⟨_, step_windowWrite_of_idle target hs idle, rfl, fun l other => ?_, fun b => ?_⟩⟩
  · rw [step_windowRead_of_idle target hs idle, wordOf_eq, wordShift]
  · exact (s.reg_setReg i l _).trans (if_neg other)
  · rw [← wordShift_add_word s.params hj]
    have stored := (s.reg_setReg i i (replaceWord s.params (s.reg i) j w)).trans (if_pos rfl)
    exact (congrArg (·.testBit b) stored).trans (testBit_replaceWord s.params (s.reg i) j w b)

end Sys2Proof.Machine
end

section
/-! PROOFS. The encoding: a command's canonical word decodes to it, a word decodes to the command its opcode selects,
and a reserved opcode completes with ILLEGAL_OPCODE (30_encoding.md sections 2 to 5). -/

namespace Sys2Proof.Machine

open Sys2Proof

/-! ## Canonical words -/

theorem opcode_le (i : Instr) : i.opcode ≤ 0x3F := by cases i <;> simp [Instr.opcode]

/-- A canonical word is R69's formula at the command's opcode; the fields put there are the ones that the command
reads. -/
theorem encode_eq_commandWord {i : Instr} (wf : i.WellFormed) :
    ∃ rd ra rb rm imm, encode i = commandWord i.opcode rd ra rb rm imm ∧
      decodeFields i.opcode rd ra rb rm imm = .ok i ∧ imm ≤ 16383 := by
  cases i with
  | ldi | sqrn | mrtest => exact ⟨_, _, _, _, _, rfl, rfl, immFits_iff.mp wf⟩
  | _ => exact ⟨_, _, _, _, _, rfl, rfl, Nat.zero_le _⟩

/-- Settles O2: the fields of the canonical word are read back, and they give the command. -/
theorem decodeOfEncodeGivesTheCommandBack : Obligations.DecodeOfEncodeGivesTheCommandBack := by
  intro i wf
  obtain ⟨rd, ra, rb, rm, imm, word, fields, fits⟩ := encode_eq_commandWord wf
  rw [word, decode_commandWord (opcode_le i) rd ra rb rm fits, fields]

/-- Settles O59: each expansion is a well-formed command, whose canonical word decodes to it. -/
theorem pseudoCommandsAreSpellings : Obligations.PseudoCommandsAreSpellings := by
  intro rd ra rb rm k fits
  have roundTrip := decodeOfEncodeGivesTheCommandBack
  exact ⟨roundTrip (.ldi rd 0) rfl, roundTrip (.mrtest rd ra k) (immFits_iff.mpr fits),
    roundTrip (.powmod rd ra rm rm) rfl, roundTrip (.powmod rd ra rb rm) rfl⟩

/-- Settles O1: the words are literals, and the decoder is run on each. -/
theorem specWordsDecode : Obligations.SpecWordsDecode :=
  ⟨rfl, rfl, rfl, rfl, rfl, rfl, rfl, rfl, rfl, rfl, rfl, rfl, rfl⟩

/-! ## Every word -/

/-- A word is rejected for its reserved opcode, or it decodes to a command of its opcode (30_encoding.md R69, R70). -/
theorem decode_cases (w : Word) :
    (ReservedOpcode (slice w.toNat 31 26) ∧ decode w = .error (.reservedOpcode (slice w.toNat 31 26))) ∨
    (¬ReservedOpcode (slice w.toNat 31 26) ∧ ∃ i, decode w = .ok i ∧ i.opcode = slice w.toNat 31 26) :=
  decodeFields_cases (Nat.le_of_lt_succ (slice_lt w.toNat 31 26)) _ _ _ _ _

/-- Settles O3, from the two outcomes of decoding a word. -/
theorem decodedCommandsAreWellFormed : Obligations.DecodedCommandsAreWellFormed := by
  intro w i hd
  refine ⟨wellFormed_of_decode hd, ?_⟩
  obtain ⟨-, rejected⟩ | ⟨-, j, accepted, opcode⟩ := decode_cases w
  · cases hd.symm.trans rejected
  · cases hd.symm.trans accepted
    exact opcode

theorem decode_eq_error_iff (w : Word) :
    (∃ e, decode w = .error e) ↔ ReservedOpcode (slice w.toNat 31 26) := by
  obtain ⟨reserved, rejected⟩ | ⟨assigned, i, accepted, -⟩ := decode_cases w
  · exact iff_of_true ⟨_, rejected⟩ reserved
  · exact iff_of_false (fun ⟨_, rejected⟩ => nomatch accepted.symm.trans rejected) assigned

/-- Settles O4: acceptance does not decode the word, and completion finds its opcode reserved. -/
theorem reservedOpcodesCompleteWithIllegalOpcode : Obligations.ReservedOpcodesCompleteWithIllegalOpcode := by
  refine ⟨decode_eq_error_iff, fun s w rest reserved => ⟨fun idle hs => step_cmdWrite_of_idle hs idle, ?_⟩⟩
  rintro busy rfl next
  obtain ⟨e, rejected⟩ := (decode_eq_error_iff s.lastCmd).mpr reserved
  rw [step_of_engineNext_of_busy next busy]
  exact State.completeCommand_of_reserved rejected

end Sys2Proof.Machine
end

section
/-! PROOFS. The utility commands (40_utility.md), from what a success commits: no register, or one (10_state.md R45). -/

namespace Sys2Proof.Machine

open Sys2Proof

/-! ## The commit of a success -/

/-- Z after a success that wrote `v` to its first destination (10_state.md R31). -/
@[simp] theorem zeroFlag_some (v : Nat) : zeroFlag (some v) = decide (v = 0) := by
  simp only [zeroFlag, Option.some.injEq]

theorem State.commit_okWrite (s : State) (rd : Reg) (v : Nat) : s.commit (s.okWrite rd v) = s.written rd v := by
  simp only [okWrite, commit_ok, succeed, applyWrites_cons, applyWrites_nil, writeReg, zeroFlag_some,
    BitVec.ofNat_eq_ofNat, written]

/-- A command rule whose answer writes one register completes with that write. -/
theorem complete_okWrite (s : State) (rd : Reg) (v : Nat) : complete s (s.okWrite rd v) = .next (s.written rd v) :=
  congrArg Host.Outcome.next (s.commit_okWrite rd v)

/-- A command rule whose answer writes no register completes with its random context. -/
theorem complete_ok_nil (s : State) (g : Option Config.RngState) :
    complete s (.ok [] none 0 g) = .next (s.doneWithout g) := rfl

/-! ## The statements -/

/-- Settles O8: NOP's rule writes no register and keeps the random context. -/
theorem nopOnlyReportsDone : Obligations.NopOnlyReportsDone :=
  fun s rd ra rb rm _ fits => ⟨decode_commandWord (by decide) rd ra rb rm fits, complete_ok_nil s s.rng⟩

/-- Settles O9: MOV's rule writes the one register `rd`, with what `ra` holds. -/
theorem movCopiesTheRegister : Obligations.MovCopiesTheRegister :=
  fun s rd ra rb rm _ fits =>
    ⟨decode_commandWord (by decide) rd ra rb rm fits, complete_okWrite s rd (s.reg ra)⟩

/-- Settles O10: LDI's rule writes the one register `rd`; zero-extension leaves the immediate's number as it is. -/
theorem ldiWritesTheImmediate : Obligations.LdiWritesTheImmediate :=
  fun s rd ra rb rm imm fits =>
    ⟨decode_commandWord (by decide) rd ra rb rm fits, complete_okWrite s rd imm⟩

end Sys2Proof.Machine
end

section
/-! PROOFS. The modular arithmetic commands (41_modular_arithmetic.md): each is one reduction of an exact number by the
modulus, and they differ only in that number. -/

namespace Sys2Proof.Machine

open Sys2Proof

/-! ## One reduction -/

/-- The completion that all the family shares: the modulus is read from `rm`, and `v` reduced by it goes to `rd`
(R81, R82). -/
def State.completeReduced (s : State) (rd rm : Reg) (v : Nat) : Host.Outcome State Fault Refusal :=
  complete s (withModulus s rm fun m => s.okWrite rd (v % m))

section
variable {s : State} {rm : Reg} (rd : Reg) (v : Nat)

theorem State.completeReduced_of_zero (h : s.reg rm = 0) : s.completeReduced rd rm v = .next (s.failed 2) :=
  congrArg (complete s) (withModulus_of_zero h _)

theorem State.completeReduced_of_ne (h : s.reg rm ≠ 0) :
    s.completeReduced rd rm v = .next (s.written rd (v % s.reg rm)) := by
  rw [completeReduced, withModulus_of_ne h, complete_okWrite]

/-- Both outcomes of a command of the family (R81, R82). -/
theorem State.completeReduced_answers :
    (s.reg rm = 0 → s.completeReduced rd rm v = .next (s.failed 2)) ∧
    (s.reg rm ≠ 0 → s.completeReduced rd rm v = .next (s.written rd (v % s.reg rm))) :=
  ⟨completeReduced_of_zero rd v, completeReduced_of_ne rd v⟩

/-- Modulus 1 reduces every number to 0 (R83). -/
theorem State.completeReduced_of_one (h : s.reg rm = 1) : s.completeReduced rd rm v = .next (s.written rd 0) := by
  have nonzero : s.reg rm ≠ 0 := by rw [h]; exact Nat.one_ne_zero
  rw [completeReduced_of_ne rd v nonzero, h, Nat.mod_one]

end

/-! ## The number that each command reduces -/

section
variable (s : State) (rd ra rb rm : Reg)

theorem exec_modred : exec (.modred rd ra rm) s = s.completeReduced rd rm (s.reg ra) := rfl

theorem exec_modmul : exec (.modmul rd ra rb rm) s = s.completeReduced rd rm (s.reg ra * s.reg rb) := rfl

theorem exec_modsqr : exec (.modsqr rd ra rm) s = s.completeReduced rd rm (s.reg ra ^ 2) := by
  rw [exec, execModsqr, ← sq, State.completeReduced]

theorem exec_sqrn (k : Nat) : exec (.sqrn rd ra rm k) s = s.completeReduced rd rm (s.reg ra ^ 2 ^ k) := by
  simp only [exec, execSqrn, immOperand, squareTimes_eq, State.completeReduced]

theorem exec_powmod : exec (.powmod rd ra rb rm) s = s.completeReduced rd rm (s.reg ra ^ s.reg rb) := by
  simp only [exec, execPowmod, powMod_eq, State.completeReduced]

end

/-! ## The statements -/

/-- Settles O13: the number reduced is the square, which is also the product of the operand with itself and the
power `2^1`. -/
theorem modsqrWritesTheReducedSquare : Obligations.ModsqrWritesTheReducedSquare := by
  intro s rd ra rb rm imm fits
  refine ⟨decode_commandWord (by decide) rd ra rb rm fits, ?_, ?_, ?_, ?_⟩ <;> rw [exec_modsqr]
  · exact State.completeReduced_of_zero rd _
  · exact State.completeReduced_of_ne rd _
  · rw [exec_modmul, sq]
  · rw [exec_sqrn, pow_one]

/-- Settles O14: `k` squarings reduce the power `2^k`. -/
theorem sqrnWritesTheIteratedSquare : Obligations.SqrnWritesTheIteratedSquare := by
  intro s rd ra rb rm k fits
  rw [exec_sqrn]
  exact ⟨decode_commandWord (by decide) rd ra rb rm fits, State.completeReduced_answers rd _⟩

/-- Settles O15: square-and-multiply reduces the power. -/
theorem powmodWritesThePower : Obligations.PowmodWritesThePower := by
  intro s rd ra rb rm imm fits
  rw [exec_powmod]
  exact ⟨decode_commandWord (by decide) rd ra rb rm fits, State.completeReduced_answers rd _⟩

/-- Settles O16: each command is one reduction, here by 1. -/
theorem modulusOneGivesZero : Obligations.ModulusOneGivesZero := by
  intro s rd ra rb rm k one
  rw [exec_modred, exec_modmul, exec_modsqr, exec_sqrn, exec_powmod]
  have zero (v : Nat) := State.completeReduced_of_one rd v one
  exact ⟨zero _, zero _, zero _, zero _, zero _⟩

/-- Settles O11: the number reduced is the operand. -/
theorem modredWritesTheRemainder : Obligations.ModredWritesTheRemainder := by
  intro s rd ra rb rm imm fits
  rw [exec_modred]
  exact ⟨decode_commandWord (by decide) rd ra rb rm fits, State.completeReduced_answers rd _⟩

/-- Settles O12: the number reduced is the full product. -/
theorem modmulWritesTheReducedProduct : Obligations.ModmulWritesTheReducedProduct := by
  intro s rd ra rb rm imm fits
  rw [exec_modmul]
  exact ⟨decode_commandWord (by decide) rd ra rb rm fits, State.completeReduced_answers rd _⟩

end Sys2Proof.Machine
end

section
/-! PROOFS. The arithmetic of the primality commands: the decomposition is the one split into a power of 2 and an odd
number (42_primality.md R92), and a failed witness trial proves its number composite (R93, R94). -/

namespace Sys2Proof.Machine

open Sys2Proof

/-! ## The decomposition -/

/-- The powers of 2 that divide `2^s · r`, with `r` odd, are those up to `2^s`. -/
theorem two_pow_dvd_two_pow_mul_iff {s r t : Nat} (odd : r % 2 = 1) : 2 ^ t ∣ 2 ^ s * r ↔ t ≤ s := by
  have coprime : (2 ^ t).Coprime r := (Nat.coprime_two_left.mpr (Nat.odd_iff.mpr odd)).pow_left t
  rw [coprime.dvd_mul_right, Nat.pow_dvd_pow_iff_le_right (by decide)]

theorem decompose_spec {n : Nat} (two : 2 ≤ n) :
    n - 1 = 2 ^ (decompose n).1 * (decompose n).2 ∧ (decompose n).2 % 2 = 1 := by
  obtain ⟨k, r, answer, split, odd⟩ := stripTwos_spec 0 (by omega : 0 < n - 1) (lt_two_pow_bitLength (n - 1))
  rw [decompose, answer, Nat.zero_add]
  exact ⟨split, odd⟩

/-- Any split of `n - 1` into a power of 2 and an odd number is the decomposition. -/
theorem decompose_eq {n s r : Nat} (two : 2 ≤ n) (split : n - 1 = 2 ^ s * r) (odd : r % 2 = 1) :
    decompose n = (s, r) := by
  obtain ⟨split', odd'⟩ := decompose_spec two
  have exponent : (decompose n).1 = s := eq_of_forall_le_iff fun t => by
    rw [← two_pow_dvd_two_pow_mul_iff odd', ← two_pow_dvd_two_pow_mul_iff odd, ← split', ← split]
  have oddPart : (decompose n).2 = r := by
    rw [split, exponent] at split'
    exact (Nat.eq_of_mul_eq_mul_left (by positivity) split').symm
  exact Prod.ext exponent oddPart

/-- Settles O17: the powers of 2 that divide `n - 1` are those of its split, and the split is the only one. -/
theorem decomposeSplitsOffTheTwos : Obligations.DecomposeSplitsOffTheTwos := by
  intro n two
  obtain ⟨split, odd⟩ := decompose_spec two
  have power : 2 ^ (decompose n).1 ≤ n - 1 := (Nat.le_mul_of_pos_right _ (by omega)).trans_eq split.symm
  have oddPart : (decompose n).2 ≤ n - 1 := (Nat.le_mul_of_pos_left _ (by positivity)).trans_eq split.symm
  refine ⟨split, odd, fun t => ?_, by omega, oddPart, fun p fits => ?_, fun even => ?_⟩
  · rw [split]
    exact two_pow_dvd_two_pow_mul_iff odd
  · have below : 2 ^ (decompose n).1 < 2 ^ p.wbits := by omega
    exact Nat.le_sub_one_of_lt ((Nat.pow_lt_pow_iff_right (by decide)).mp below)
  · exact decompose_eq two (by simp) (by omega)

/-! ## The witness trial -/

/-- The loop looks for `n - 1` among the squarings (R93). -/
theorem trialLoop_eq_true_iff (n count y : Nat) :
    trialLoop n count y = true ↔ ∃ j < count, y ^ 2 ^ (j + 1) % n = n - 1 := by
  induction count generalizing y with
  | zero => simp [trialLoop]
  | succ c ih =>
    have square (j : Nat) : (y * y % n) ^ 2 ^ (j + 1) % n = y ^ 2 ^ (j + 1 + 1) % n := by
      rw [← Nat.pow_mod, ← sq, ← pow_mul, ← pow_succ']
    have first : y ^ 2 ^ (0 + 1) % n = y * y % n := by rw [Nat.zero_add, pow_one, sq]
    rw [trialLoop, Nat.exists_lt_succ_left, first]
    split
    · next hit => exact iff_of_true rfl (.inl hit)
    · next miss => simp only [ih, square, miss, false_or]

/-- The trial in one form: `a^r` is 1, or one of the `s` numbers that its squarings give is `n - 1`. -/
theorem trial_eq_true_iff {n s r : Nat} (a : Nat) (odd : n % 2 = 1) (five : 5 ≤ n) (split : n - 1 = 2 ^ s * r)
    (oddPart : r % 2 = 1) :
    trial n a = true ↔ a ^ r % n = 1 ∨ ∃ j < s, a ^ (2 ^ j * r) % n = n - 1 := by
  cases s with
  | zero => rw [pow_zero, one_mul] at split; omega
  | succ t =>
    have power (j : Nat) : (a ^ r % n) ^ 2 ^ (j + 1) % n = a ^ (2 ^ (j + 1) * r) % n := by
      rw [← Nat.pow_mod, ← pow_mul, Nat.mul_comm]
    rw [trial, decompose_eq (by omega) split oddPart, powMod_eq, Nat.exists_lt_succ_left, pow_zero, one_mul,
      ← or_assoc]
    split
    · next hit => exact iff_of_true rfl (.inl hit)
    · next miss => simp only [trialLoop_eq_true_iff, Nat.add_sub_cancel, power, miss, false_or]

/-- Settles O19: the number before the first squaring is told apart from the later ones. -/
theorem trialFindsOneOrMinusOne : Obligations.TrialFindsOneOrMinusOne := by
  intro n a s r odd five split oddPart
  rw [trial_eq_true_iff a odd five split oddPart]
  refine or_congr_right ⟨?_, ?_⟩
  · rintro ⟨j, below, hit⟩
    rcases Nat.eq_zero_or_pos j with rfl | pos
    · exact .inl (by simpa using hit)
    · exact .inr ⟨j, pos, by omega, hit⟩
  · have positive : s ≠ 0 := by rintro rfl; rw [pow_zero, one_mul] at split; omega
    rintro (hit | ⟨j, pos, bound, hit⟩)
    · exact ⟨0, by omega, by simpa using hit⟩
    · exact ⟨j, by omega, hit⟩

/-! ## Primes pass -/

/-- Where 1 has only the square roots 1 and -1, squaring reaches 1 by way of -1, or it started at 1. -/
theorem eq_one_or_pow_two_pow_eq_neg_one {R : Type*} [Ring R] [NoZeroDivisors R] {x : R} {s : Nat}
    (h : x ^ 2 ^ s = 1) : x = 1 ∨ ∃ j < s, x ^ 2 ^ j = -1 := by
  induction s with
  | zero => exact .inl (by simpa using h)
  | succ s ih =>
    rw [pow_succ, pow_mul, sq_eq_one_iff] at h
    obtain one | minusOne := h
    · exact (ih one).imp_right fun ⟨j, below, hit⟩ => ⟨j, below.trans (Nat.lt_succ_self s), hit⟩
    · exact .inr ⟨s, Nat.lt_succ_self s, minusOne⟩

theorem mod_eq_one_of_natCast {n v : Nat} (two : 2 ≤ n) (h : (v : ZMod n) = 1) : v % n = 1 := by
  rw [← Nat.cast_one, ZMod.natCast_eq_natCast_iff', Nat.mod_eq_of_lt (by omega : 1 < n)] at h
  exact h

theorem mod_eq_pred_of_natCast {n v : Nat} (pos : 1 ≤ n) (h : (v : ZMod n) = -1) : v % n = n - 1 := by
  have pred : ((n - 1 : Nat) : ZMod n) = -1 := by rw [Nat.cast_sub pos]; simp
  rw [← pred, ZMod.natCast_eq_natCast_iff', Nat.mod_eq_of_lt (by omega : n - 1 < n)] at h
  exact h

/-- Settles O20: by Fermat `a^(n-1)` is 1 modulo `n`, and it is `a^r` squared `s` times. -/
theorem primesPassEveryTrial : Obligations.PrimesPassEveryTrial := by
  intro n a prime five low high
  have : Fact n.Prime := ⟨prime⟩
  have odd : n % 2 = 1 := prime.mod_two_eq_one_iff_ne_two.mpr (by omega)
  obtain ⟨split, oddPart⟩ := decompose_spec (by omega : 2 ≤ n)
  have unit : (a : ZMod n) ≠ 0 := by
    rw [Ne, ZMod.natCast_eq_zero_iff]
    exact Nat.not_dvd_of_pos_of_lt (by omega) (by omega)
  have fermat : ((a : ZMod n) ^ (decompose n).2) ^ 2 ^ (decompose n).1 = 1 := by
    rw [← pow_mul, Nat.mul_comm, ← split]
    exact ZMod.pow_card_sub_one_eq_one unit
  rw [trial_eq_true_iff a odd five split oddPart]
  obtain one | ⟨j, below, minusOne⟩ := eq_one_or_pow_two_pow_eq_neg_one fermat
  · exact .inl (mod_eq_one_of_natCast (by omega) (by rw [Nat.cast_pow]; exact one))
  · refine .inr ⟨j, below, mod_eq_pred_of_natCast (by omega) ?_⟩
    rw [Nat.cast_pow, Nat.mul_comm, pow_mul]
    exact minusOne

theorem exists_factors_of_not_prime {n : Nat} (two : 2 ≤ n) (h : ¬n.Prime) : ∃ b c, 1 < b ∧ 1 < c ∧ n = b * c := by
  obtain ⟨b, ⟨c, rfl⟩, low, high⟩ := (Nat.not_prime_iff_exists_dvd_lt two).mp h
  exact ⟨b, c, low, (Nat.lt_mul_iff_one_lt_right (by omega)).mp high, rfl⟩

/-- Settles O21: a prime would have passed. -/
theorem failedTrialsProveComposite : Obligations.FailedTrialsProveComposite := by
  intro n a odd five low high failed
  refine exists_factors_of_not_prime (by omega) fun prime => ?_
  rw [primesPassEveryTrial n a prime five low high] at failed
  exact Bool.noConfusion failed

end Sys2Proof.Machine
end

section
/-! PROOFS. The primality commands DECOMP, MRROUND and MRTEST (42_primality.md), from what their rules answer. -/

namespace Sys2Proof.Machine

open Sys2Proof

/-! ## DECOMP and MRROUND -/

/-- A success whose first write decides Z: the later writes, the rounds and the random context are as answered. -/
theorem complete_ok_cons (s : State) (rd : Reg) (v : Nat) (ws : List (Reg × Nat)) (rounds : Nat)
    (g : Option Config.RngState) :
    complete s (.ok ((rd, v) :: ws) (some v) rounds g) = .next
      { s.written rd v with
        x := applyWrites (writeReg s.x rd v) ws, mrRounds := BitVec.ofNat 32 rounds, rng := g } := by
  rw [complete, State.commit_ok, State.succeed, zeroFlag_some, applyWrites_cons, State.written]

/-- Settles O18: the rule's three cases in their order, the last with the decomposition of the operand. -/
theorem decompWritesTheOddPartAndTheExponent : Obligations.DecompWritesTheOddPartAndTheExponent := by
  intro s rd ra rb rm imm fits
  refine ⟨decode_commandWord (by decide) rd ra rb rm fits, fun same => ?_, fun differ small => ?_,
    fun differ two => ?_⟩
  · rw [exec, execDecomp, if_pos same]
    rfl
  · rw [exec, execDecomp, if_neg differ, if_pos small]
    rfl
  · obtain ⟨split, oddPart⟩ := decompose_spec two
    refine ⟨_, _, split, oddPart, ?_⟩
    rw [exec, execDecomp, if_neg differ, if_neg (by omega)]
    exact complete_ok_cons s rd _ _ 0 s.rng

/-- In its domain MRROUND writes the verdict of one trial (R96). -/
theorem exec_mrround_of_domain {s : State} {ra rb : Reg} (rd : Reg) (odd : s.reg ra % 2 = 1) (five : 5 ≤ s.reg ra)
    (low : 2 ≤ s.reg rb) (high : s.reg rb ≤ s.reg ra - 2) :
    exec (.mrround rd ra rb) s =
      .next { s.written rd (verdict (trial (s.reg ra) (s.reg rb))) with mrRounds := 1 } := by
  rw [exec, execMrround, if_neg (by omega)]
  exact complete_ok_cons s rd _ [] 1 s.rng

/-- Settles O22: outside the domain the rule's guard holds, and inside it the verdict is written. -/
theorem mrroundWritesTheVerdictOfOneTrial : Obligations.MrroundWritesTheVerdictOfOneTrial := by
  intro s rd ra rb rm imm fits
  refine ⟨decode_commandWord (by decide) rd ra rb rm fits, fun outside => ?_, fun odd five low high => ?_⟩
  · rw [exec, execMrround, if_pos outside]
    rfl
  · rw [exec_mrround_of_domain rd odd five low high]
    exact ⟨fun pass => by rw [pass]; rfl, fun fail => by rw [fail]; rfl⟩

/-! ## MRTEST -/

section
variable {s : State} {st : Config.RngState} {ra : Reg} (rd : Reg) (k : Nat)

theorem exec_mrtest_of_unseeded (ra : Reg) (unseeded : s.rng = none) :
    exec (.mrtest rd ra k) s = .next (s.failed 5) := by
  rw [exec, execMrtest, unseeded]
  rfl

/-- Seeded, MRTEST writes the verdict that `isPrime` answers, its rounds and the state it leaves (R97). -/
theorem exec_mrtest_of_isPrime {passes : Bool} {rounds : Nat} {st' : Config.RngState} (seeded : s.rng = some st)
    (answer : isPrime s.params (s.reg ra) k st = (passes, rounds, st')) :
    exec (.mrtest rd ra k) s = .next
      { s.written rd (verdict passes) with mrRounds := BitVec.ofNat 32 rounds, rng := some st' } := by
  rw [exec, execMrtest, seeded]
  simp only [immOperand, answer]
  exact complete_ok_cons s rd _ [] rounds (some st')

/-- A verdict without a draw leaves MR_ROUNDS 0 and the random context as it was (R97). -/
theorem exec_mrtest_of_shortCircuit {passes : Bool} (seeded : s.rng = some st)
    (answer : isPrime s.params (s.reg ra) k st = (passes, 0, st)) :
    exec (.mrtest rd ra k) s = .next (s.written rd (verdict passes)) := by
  rw [exec_mrtest_of_isPrime rd k seeded answer, ← seeded]
  rfl

/-- When every base passes, MRTEST writes 1 after `k` rounds (R97). -/
theorem exec_mrtest_of_pass (seeded : s.rng = some st) (odd : s.reg ra % 2 = 1) (five : 5 ≤ s.reg ra)
    (pass : ∀ j < k, trial (s.reg ra) (baseAt s.params st (s.reg ra) j) = true) :
    exec (.mrtest rd ra k) s = .next
      { s.written rd 1 with
        mrRounds := BitVec.ofNat 32 k, rng := some (stateAfter s.params st (s.reg ra) k) } := by
  refine exec_mrtest_of_isPrime (passes := true) rd k seeded ?_
  rw [isPrime_of_odd odd five, mrRoundsLoop_of_pass 0 pass, Nat.zero_add]

end

/-- 0, 1 and the even numbers above 2 are rejected without a draw (R97). -/
theorem isPrime_of_trivially_composite (p : Config.Params) {n : Nat} (k : Nat) (st : Config.RngState)
    (h : n = 0 ∨ n = 1 ∨ (n % 2 = 0 ∧ 2 < n)) : isPrime p n k st = (false, 0, st) := by
  obtain rfl | rfl | ⟨even, two⟩ := h
  · rfl
  · rfl
  · rw [isPrime, if_neg (by omega), if_neg (by omega), if_neg (by omega), if_pos even]

/-- 2 and 3 are accepted without a draw (R97). -/
theorem isPrime_of_two_or_three (p : Config.Params) {n : Nat} (k : Nat) (st : Config.RngState)
    (h : n = 2 ∨ n = 3) : isPrime p n k st = (true, 0, st) := by
  obtain rfl | rfl := h <;> rfl

/-- Settles O23: the answers of `isPrime`, case by case of the candidate, each written by MRTEST. -/
theorem mrtestRunsTheRoundsItNeeds : Obligations.MrtestRunsTheRoundsItNeeds := by
  intro s rd ra rb rm k fits
  refine ⟨decode_commandWord (by decide) rd ra rb rm fits, exec_mrtest_of_unseeded rd k ra,
    fun st seeded => ⟨fun composite => ?_, fun prime => ?_, fun odd five => ⟨?_, fun j hj pass fail => ?_⟩⟩⟩
  · exact exec_mrtest_of_shortCircuit rd k seeded (isPrime_of_trivially_composite _ k st composite)
  · exact exec_mrtest_of_shortCircuit rd k seeded (isPrime_of_two_or_three _ k st prime)
  · exact exec_mrtest_of_pass rd k seeded odd five
  · refine exec_mrtest_of_isPrime (passes := false) rd k seeded ?_
    rw [isPrime_of_odd odd five, mrRoundsLoop_of_fail 0 hj pass fail, Nat.zero_add]

/-! ## Primes and MRTEST -/

/-- Every base that is drawn for an odd candidate of 5 or more is in the base range (43_random_context.md R100). -/
theorem baseAt_mem_range (p : Config.Params) (st : Config.RngState) {n : Nat} (odd : n % 2 = 1) (five : 5 ≤ n)
    (j : Nat) : 2 ≤ baseAt p st n j ∧ baseAt p st n j ≤ n - 2 := by
  have remainder := Nat.mod_lt (Config.rngRaw p (stateAfter p st n j) n) (by omega : n - 3 > 0)
  rw [baseAt, rngDraw_base p _ odd five]
  omega

/-- A prime of 5 or more passes every round, whatever is drawn. -/
theorem exec_mrtest_of_prime {s : State} {st : Config.RngState} {ra : Reg} (rd : Reg) (k : Nat)
    (seeded : s.rng = some st) (prime : (s.reg ra).Prime) (five : 5 ≤ s.reg ra) :
    exec (.mrtest rd ra k) s = .next
      { s.written rd 1 with
        mrRounds := BitVec.ofNat 32 k, rng := some (stateAfter s.params st (s.reg ra) k) } := by
  have odd : s.reg ra % 2 = 1 := prime.mod_two_eq_one_iff_ne_two.mpr (by omega)
  refine exec_mrtest_of_pass rd k seeded odd five fun j _ => ?_
  obtain ⟨low, high⟩ := baseAt_mem_range s.params st odd five j
  exact primesPassEveryTrial _ _ prime five low high

/-- Settles O24: no base of the range rejects a prime. -/
theorem mrtestAcceptsEveryPrime : Obligations.MrtestAcceptsEveryPrime :=
  fun _ rd _ k _ _ seeded prime five => exec_mrtest_of_prime rd k seeded prime five

/-- Settles O25: for a prime the verdict would be 1. -/
theorem mrtestRejectsOnlyComposites : Obligations.MrtestRejectsOnlyComposites := by
  intro s t rd ra k next isSeeded five rejected
  obtain ⟨st, seeded⟩ := Option.isSome_iff_exists.mp isSeeded
  refine exists_factors_of_not_prime (by omega) fun prime => ?_
  rw [exec_mrtest_of_prime rd k seeded prime five] at next
  cases next
  have accepted := (aWrittenRegisterHoldsItsValue s rd rd 1).trans (if_pos rfl)
  exact absurd (accepted.symm.trans rejected) Nat.one_ne_zero

end Sys2Proof.Machine
end

section
/-! PROOFS. The random context (43_random_context.md): SEED and UNSEED in both states of the context, and the range of
a draw. -/

namespace Sys2Proof.Machine

open Sys2Proof

/-- A command rule that answers an error completes with the report of its code (60_exceptions.md R107). -/
theorem complete_err (s : State) (e : CmdError) : complete s (.err e) = .next (s.failed e.code) := rfl

/-! ## SEED and UNSEED -/

section
variable {s : State} {st : Config.RngState}

theorem exec_seed_of_unseeded (ra : Reg) (unseeded : s.rng = none) :
    exec (.seed ra) s = .next (s.doneWithout (some (Config.rngInit s.params (s.reg ra)))) := by
  rw [exec, execSeed, unseeded]
  exact complete_ok_nil s _

theorem exec_seed_of_seeded (ra : Reg) (seeded : s.rng = some st) :
    exec (.seed ra) s = .next (s.failed 6) := by
  rw [exec, execSeed, seeded]
  exact complete_err s .rngState

theorem exec_unseed_of_seeded (seeded : s.rng = some st) : exec .unseed s = .next (s.doneWithout none) := by
  rw [exec, execUnseed, seeded]
  exact complete_ok_nil s none

theorem exec_unseed_of_unseeded (unseeded : s.rng = none) : exec .unseed s = .next (s.failed 6) := by
  rw [exec, execUnseed, unseeded]
  exact complete_err s .rngState

end

/-- Settles O26: the word's fields select SEED, whose rule splits on the context. -/
theorem seedInitialisesOnce : Obligations.SeedInitialisesOnce :=
  fun _ rd ra rb rm _ fits =>
    ⟨decode_commandWord (by decide) rd ra rb rm fits, exec_seed_of_unseeded ra,
      fun _ => exec_seed_of_seeded ra⟩

/-- Settles O27: the word's fields select UNSEED, whose rule splits on the context. -/
theorem unseedTearsDownOnce : Obligations.UnseedTearsDownOnce :=
  fun _ rd ra rb rm _ fits =>
    ⟨decode_commandWord (by decide) rd ra rb rm fits, fun _ => exec_unseed_of_seeded,
      exec_unseed_of_unseeded⟩

/-! ## Draws -/

/-- Settles O28: a draw is the first of the chained draws, whose bases are all in the base range. -/
theorem drawsLieInTheBaseRange : Obligations.DrawsLieInTheBaseRange :=
  fun p st _ odd five => baseAt_mem_range p st odd five 0

end Sys2Proof.Machine
end

section
/-! PROOFS. Exceptions (60_exceptions.md): what a command reports, which accesses get a bus error, and when `irq`
rises. -/

namespace Sys2Proof.Machine

open Sys2Proof

/-! ## Command errors -/

/-- ILLEGAL_OPCODE is the report of a word that is no command, so no command rule answers it (30_encoding.md R70). -/
theorem exec_never_illegalOpcode (i : Instr) (s : State) :
    ∃ r, exec i s = .next (s.commit r) ∧ r ≠ .err .illegalOpcode := by
  have reduced (rd rm : Reg) (f : Nat → Nat) :
      (withModulus s rm fun m => s.okWrite rd (f m)) ≠ .err .illegalOpcode :=
    withModulus_induction (P := (· ≠ .err .illegalOpcode)) nofun fun _ => nofun
  cases i with
  | nop | mov | ldi => exact ⟨_, rfl, nofun⟩
  | modred rd _ rm | modmul rd _ _ rm | modsqr rd _ rm | sqrn rd _ rm | powmod rd _ _ rm =>
    exact ⟨_, rfl, reduced rd rm _⟩
  | decomp | mrround =>
    refine ⟨_, rfl, ?_⟩
    dsimp only
    split_ifs <;> nofun
  | mrtest | seed | unseed =>
    refine ⟨_, rfl, ?_⟩
    cases s.rng <;> nofun

/-- Code 1 is ILLEGAL_OPCODE's alone (60_exceptions.md R106). -/
theorem CmdError.two_le_code {e : CmdError} (h : e ≠ .illegalOpcode) : 2 ≤ e.code.toNat := by
  cases e with
  | illegalOpcode => exact absurd rfl h
  | _ => decide

/-- Settles O29: every command answers a commit, whose error is not ILLEGAL_OPCODE. -/
theorem everyCommandSucceedsOrReportsOneError : Obligations.EveryCommandSucceedsOrReportsOneError := by
  intro i s
  obtain ⟨r, hr, legal⟩ := exec_never_illegalOpcode i s
  refine ⟨_, hr, s.commit_busy r, ?_⟩
  cases r with
  | ok writes zval rounds rng => exact .inr rfl
  | err e => exact .inl ⟨e.code, e.two_le_code (mt (congrArg Result.err) legal), e.code_known, rfl⟩

/-! ## Bus errors -/

theorem Csr.legalAccess (p : Config.Params) (c : Csr) : LegalAccess p 32 c.offset := by
  obtain ⟨aligned, low⟩ : c.offset.toNat % 4 = 0 ∧ c.offset.toNat < 0x28 := by cases c <;> decide
  exact ⟨rfl, aligned, .inl low⟩

/-- An access that reaches something is legal. -/
theorem legalAccess_of_accessTarget {p : Config.Params} {width : Nat} {off : Offset} {a : Target}
    (h : accessTarget p width off = some a) : LegalAccess p width off := by
  cases a with
  | csr c =>
    obtain ⟨rfl, hc⟩ := accessTarget_eq_csr h
    rw [csrAt_eq_some_iff.mp hc]
    exact c.legalAccess p
  | window i j =>
    obtain ⟨rfl, aligned, inWindow, -⟩ := accessTarget_eq_window h
    exact ⟨rfl, aligned, .inr inWindow⟩

theorem accessTarget_of_not_legalAccess {p : Config.Params} {width : Nat} {off : Offset}
    (illegal : ¬LegalAccess p width off) : accessTarget p width off = none :=
  Option.eq_none_iff_forall_ne_some.mpr fun _ h => illegal (legalAccess_of_accessTarget h)

/-- Settles O45: a legal access never stops the machine, and an illegal one reaches nothing. -/
theorem busErrorsAreExactlyTheIllegalAccesses : Obligations.BusErrorsAreExactlyTheIllegalAccesses := by
  intro s width off v rest access
  refine ⟨fun legal => ?_, fun illegal => ?_⟩
  · obtain hs | hs := access
    · exact step_of_legal hs legal
    · exact step_of_legal hs legal
  · have nothing := accessTarget_of_not_legalAccess illegal
    obtain hs | hs := access <;> rw [step_of_cons hs]
    · simp only [State.runEvent, State.hostRead, nothing]
    · simp only [State.runEvent, State.hostWrite, nothing]

/-! ## The interrupt output -/

theorem twoBitWord_ne_zero_iff {a b : Bool} : twoBitWord a b ≠ 0 ↔ a = true ∨ b = true := by
  cases a <;> cases b <;> decide

/-- `irq` is the level of 60_exceptions.md R112. -/
theorem State.irq_iff (s : State) : s.irq = true ↔ s.intrStateWord &&& s.intrEnableWord ≠ 0 := by
  rw [State.intrStateWord_eq, State.intrEnableWord_eq, twoBitWord_and, getLsbD_twoBitWord_zero,
    getLsbD_twoBitWord_one, twoBitWord_ne_zero_iff, or_comm, ← Bool.or_eq_true, State.irq]

/-- A write of INTR_STATE only clears pending bits, so it cannot raise `irq` (10_state.md R34). -/
theorem State.irq_of_writeIntrState {s : State} {w : Word} (h : (s.writeIntrState w).irq = true) :
    s.irq = true := by
  simp only [State.irq, State.writeIntrState, Bool.or_eq_true, Bool.and_eq_true] at h ⊢
  exact h.imp (fun done => ⟨done.1.1, done.2⟩) fun err => ⟨err.1.1, err.2⟩

/-- Settles O54: of the effects other than the two named, a reset and a write of INTR_STATE can only lower `irq`, and
the rest keep the pending bits and the enables. -/
theorem irqRisesOnlyByCompletionOrEnable : Obligations.IrqRisesOnlyByCompletionOrEnable := by
  refine ⟨State.irq_iff, fun s t h low high => ?_⟩
  obtain ⟨u, replies, effect, rfl⟩ := step_effect h
  cases effect with
  | completion rest busy next => exact .inl ⟨busy, rest, next⟩
  | intrEnableWrite w rest next => exact .inr ⟨w, rest, next⟩
  | reset => exact nomatch high
  | intrStateWrite w => cases low.symm.trans (State.irq_of_writeIntrState (w := w) high)
  | _ => cases low.symm.trans high

end Sys2Proof.Machine
end

section
/-! PROOFS. The two resets: the reset source's, at any time, and the host's, granted only while idle
(70_reset_and_hazards.md R124, R125). -/

namespace Sys2Proof.Machine

open Sys2Proof

section
variable {s : State} {w : Word} {rest : List Event}

/-- A hard reset, whether or not a command is in flight (70_reset_and_hazards.md R124). -/
theorem step_hardReset (hs : s.schedule = .hardReset :: rest) :
    step s = .next { s.hardReset with schedule := rest } := step_of_cons hs

/-- A CTRL write that requests nothing is only answered (10_state.md R26). -/
theorem step_ctrlWrite_of_clear (hs : s.schedule = .hostWrite 32 0x008 w :: rest) (clear : w.getLsbD 0 = false) :
    step s = .next { s with schedule := rest, replies := .written :: s.replies } := by
  rw [step_csrWrite .ctrl hs]
  simp only [State.writeCsr, State.writeCtrl, if_neg (Bool.not_eq_true _ ▸ clear)]
  rfl

end

@[simp] theorem State.reg_hardReset (s : State) (i : Reg) : s.hardReset.reg i = 0 :=
  Vector.getElem_replicate i.isLt

/-- The words of the CSRs are put together from fields that are all 0 (10_state.md R48). -/
theorem State.csrWords_hardReset (s : State) :
    s.hardReset.statusWord = 0 ∧ s.hardReset.intrStateWord = 0 ∧ s.hardReset.intrEnableWord = 0 ∧
      s.hardReset.hosterrWord = 0 := by
  refine ⟨?_, ?_, ?_, ?_⟩
  · simp [State.statusWord, State.rngReady]
  · simp [State.intrStateWord]
  · simp [State.intrEnableWord]
  · simp [State.hosterrWord]

/-- Settles O42: the next state is `hardReset`, whose registers and other fields are 0. -/
theorem hardResetClearsEverything : Obligations.HardResetClearsEverything := by
  intro s rest hs
  obtain ⟨status, intrState, intrEnable, hosterr⟩ := s.csrWords_hardReset
  exact ⟨_, step_hardReset hs, s.reg_hardReset, status, intrState, intrEnable, hosterr, rfl, rfl, rfl, rfl, rfl,
    rfl, rfl, rfl⟩

/-- Settles O43: the granted request leaves what the reset event leaves, with the answer to the host besides; the
other two clauses are the steps of a refused request and of no request. -/
theorem softResetIsGrantedOnlyWhileIdle : Obligations.SoftResetIsGrantedOnlyWhileIdle :=
  fun _ _ _ hs =>
    ⟨fun srst idle => ⟨_, step_hardReset rfl, step_ctrlWrite_of_idle hs srst idle⟩,
     fun srst busy => step_ctrlWrite_of_busy hs srst busy,
     fun clear => step_ctrlWrite_of_clear hs clear⟩

end Sys2Proof.Machine
end
